-- ==== Sys2Proof/Word.lean ====
section
/-! DEFINITION. The widths of the H8/300L (spec/00_scope.md R6, R9): byte, word, address, nibble, and the
register codes and small immediates an instruction word carries. Names only: every operation on them is in
`Sys2Proof/Machine/Bits.lean`. -/

namespace Sys2Proof

/-- 8 bits, the addressable unit of memory (R6, R20). -/
abbrev Byte := BitVec 8

/-- 16 bits (R6, R20). There is no wider datum. -/
abbrev Word := BitVec 16

/-- A 16-bit address of one byte (R6). -/
abbrev Addr := BitVec 16

/-- Half a byte: one hexadecimal digit of an instruction code (spec/30_encoding.md R80). -/
abbrev Nibble := BitVec 4

/-- The 4-bit code of an 8-bit register: bit 3 selects the lower byte, bits 2 to 0 the number
(spec/10_state.md R32). -/
abbrev Reg8 := BitVec 4

/-- The 3-bit code of a 16-bit register R0 to R7 (spec/10_state.md R32). -/
abbrev Reg16 := BitVec 3

/-- A bit number `#xx:3` (spec/30_encoding.md R93). -/
abbrev Imm3 := BitVec 3

end Sys2Proof
end

