-- ==== Sys2Proof/Machine/Bits.lean ====
section
/-! DEFINITION. Bit fields and byte order: the bytes of a word and the nibbles of a byte (spec/00_scope.md R9, R10), the
3-bit field under a fixed or selecting top bit (spec/30_encoding.md R82), and the even address of a word access
(spec/20_memory.md R55). -/

namespace Sys2Proof

/-- Bits 15 to 8 of a word: the byte at the even address (spec/20_memory.md R53). -/
def hiByte (w : Word) : Byte := w.extractLsb' 8 8

/-- Bits 7 to 0 of a word: the byte at the odd address (R53). -/
def loByte (w : Word) : Byte := w.extractLsb' 0 8

/-- `hi : lo` of spec/00_scope.md R10 at byte width. -/
def joinBytes (hi lo : Byte) : Word := hi ++ lo

/-- The high hexadecimal digit of a byte. -/
def hiNibble (b : Byte) : Nibble := b.extractLsb' 4 4

/-- The low hexadecimal digit of a byte. -/
def loNibble (b : Byte) : Nibble := b.extractLsb' 0 4

/-- `hi : lo` of spec/00_scope.md R10 at nibble width. -/
def joinNibbles (hi lo : Nibble) : Byte := hi ++ lo

/-- Bit 3 of a nibble: a fixed bit, the direction bit or the invert bit over a 3-bit field (spec/30_encoding.md R82). -/
def topBit (n : Nibble) : Bool := n.getLsbD 3

/-- Bits 2 to 0 of a nibble: a 3-bit register number or `#xx:3` (R82). -/
def low3 (n : Nibble) : BitVec 3 := n.extractLsb' 0 3

/-- The nibble `0r` or `1r` of the code rows (R98). -/
def nibbleOf (top : Bool) (r : BitVec 3) : Nibble := BitVec.ofBool top ++ r

/-- `addr & H'FFFE` (spec/20_memory.md R55, spec/10_state.md R35). -/
def evenAddr (a : Addr) : Addr := a &&& 0xFFFE#16

/-- `sext_16` of an 8-bit displacement (spec/00_scope.md R10). -/
def signExtend16 (d : Byte) : Word := d.signExtend 16

/-- The bytes of a list of words in the order memory holds them: each word most significant byte first
(spec/30_encoding.md R80, spec/20_memory.md R54). -/
def storageBytes : List Word → List Byte
  | [] => []
  | w :: ws => hiByte w :: loByte w :: storageBytes ws

end Sys2Proof
end

