-- ==== Sys2Proof/Syntax.lean ====
section
/-! DEFINITION. The instructions of the H8/300L: one constructor per row of spec/opcode_table.json, in the table's order
(spec/30_encoding.md R98, R99), operands in the assembler's order, source before destination (R105). The rows POP and PUSH
have constructors of their own (notes/assumptions/12.md). Each docstring gives the manual's notation and the rule. -/

namespace Sys2Proof

/-- One instruction with its operands. -/
inductive Instr where
  /-- `NOP` (R279). -/
  | nop
  /-- `SLEEP` (R272). -/
  | sleep
  /-- `STC CCR, Rd` (R275). -/
  | stc (rd : Reg8)
  /-- `LDC Rs, CCR` (R274). -/
  | ldcReg (rs : Reg8)
  /-- `ORC #xx:8, CCR` (R277). -/
  | orc (imm : Byte)
  /-- `XORC #xx:8, CCR` (R278). -/
  | xorc (imm : Byte)
  /-- `ANDC #xx:8, CCR` (R276). -/
  | andc (imm : Byte)
  /-- `LDC #xx:8, CCR` (R273). -/
  | ldcImm (imm : Byte)
  /-- `ADD.B Rs, Rd` (R152). -/
  | addBReg (rs rd : Reg8)
  /-- `ADD.W Rs, Rd` (R153). -/
  | addW (rs rd : Reg16)
  /-- `INC Rd` (R156). -/
  | inc (rd : Reg8)
  /-- `ADDS #1, Rd` (R154). -/
  | adds1 (rd : Reg16)
  /-- `ADDS #2, Rd` (R154). -/
  | adds2 (rd : Reg16)
  /-- `MOV.B Rs, Rd` (R121). -/
  | movBReg (rs rd : Reg8)
  /-- `MOV.W Rs, Rd` (R122). -/
  | movWReg (rs rd : Reg16)
  /-- `ADDX Rs, Rd` (R155). -/
  | addxReg (rs rd : Reg8)
  /-- `DAA Rd` (R168). -/
  | daa (rd : Reg8)
  /-- `SHLL Rd` (R187). -/
  | shll (rd : Reg8)
  /-- `SHAL Rd` (R185). -/
  | shal (rd : Reg8)
  /-- `SHLR Rd` (R188). -/
  | shlr (rd : Reg8)
  /-- `SHAR Rd` (R186). -/
  | shar (rd : Reg8)
  /-- `ROTXL Rd` (R191). -/
  | rotxl (rd : Reg8)
  /-- `ROTL Rd` (R189). -/
  | rotl (rd : Reg8)
  /-- `ROTXR Rd` (R192). -/
  | rotxr (rd : Reg8)
  /-- `ROTR Rd` (R190). -/
  | rotr (rd : Reg8)
  /-- `OR Rs, Rd` (R182). -/
  | orReg (rs rd : Reg8)
  /-- `XOR Rs, Rd` (R183). -/
  | xorReg (rs rd : Reg8)
  /-- `AND Rs, Rd` (R181). -/
  | andReg (rs rd : Reg8)
  /-- `NOT Rd` (R184). -/
  | notReg (rd : Reg8)
  /-- `NEG Rd` (R165). -/
  | neg (rd : Reg8)
  /-- `SUB.B Rs, Rd` (R161). -/
  | subB (rs rd : Reg8)
  /-- `SUB.W Rs, Rd` (R162). -/
  | subW (rs rd : Reg16)
  /-- `DEC Rd` (R157). -/
  | dec (rd : Reg8)
  /-- `SUBS #1, Rd` (R163). -/
  | subs1 (rd : Reg16)
  /-- `SUBS #2, Rd` (R163). -/
  | subs2 (rd : Reg16)
  /-- `CMP.B Rs, Rd` (R159). -/
  | cmpBReg (rs rd : Reg8)
  /-- `CMP.W Rs, Rd` (R160). -/
  | cmpW (rs rd : Reg16)
  /-- `SUBX Rs, Rd` (R164). -/
  | subxReg (rs rd : Reg8)
  /-- `DAS Rd` (R169). -/
  | das (rd : Reg8)
  /-- `MOV.B @aa:8, Rd` (R127). -/
  | movBLoadAbs8 (rd : Reg8) (abs : Byte)
  /-- `MOV.B Rs, @aa:8` (R134). -/
  | movBStoreAbs8 (rs : Reg8) (abs : Byte)
  /-- `BRA d:8` (R251). -/
  | bra (disp : Byte)
  /-- `BRN d:8` (R251). -/
  | brn (disp : Byte)
  /-- `BHI d:8` (R251). -/
  | bhi (disp : Byte)
  /-- `BLS d:8` (R251). -/
  | bls (disp : Byte)
  /-- `BCC d:8` (R251). -/
  | bcc (disp : Byte)
  /-- `BCS d:8` (R251). -/
  | bcs (disp : Byte)
  /-- `BNE d:8` (R251). -/
  | bne (disp : Byte)
  /-- `BEQ d:8` (R251). -/
  | beq (disp : Byte)
  /-- `BVC d:8` (R251). -/
  | bvc (disp : Byte)
  /-- `BVS d:8` (R251). -/
  | bvs (disp : Byte)
  /-- `BPL d:8` (R251). -/
  | bpl (disp : Byte)
  /-- `BMI d:8` (R251). -/
  | bmi (disp : Byte)
  /-- `BGE d:8` (R251). -/
  | bge (disp : Byte)
  /-- `BLT d:8` (R251). -/
  | blt (disp : Byte)
  /-- `BGT d:8` (R251). -/
  | bgt (disp : Byte)
  /-- `BLE d:8` (R251). -/
  | ble (disp : Byte)
  /-- `MULXU Rs, Rd` (R172). -/
  | mulxu (rs : Reg8) (rd : Reg16)
  /-- `DIVXU Rs, Rd` (R173). -/
  | divxu (rs : Reg8) (rd : Reg16)
  /-- `RTS` (R260). -/
  | rts
  /-- `BSR d:8` (R253). -/
  | bsr (disp : Byte)
  /-- `RTE` (R271). -/
  | rte
  /-- `JMP @Rn` (R254). -/
  | jmpInd (rn : Reg16)
  /-- `JMP @aa:16` (R255). -/
  | jmpAbs (abs : Word)
  /-- `JMP @@aa:8` (R256). -/
  | jmpMem (abs : Byte)
  /-- `JSR @Rn` (R257). -/
  | jsrInd (rn : Reg16)
  /-- `JSR @aa:16` (R258). -/
  | jsrAbs (abs : Word)
  /-- `JSR @@aa:8` (R259). -/
  | jsrMem (abs : Byte)
  /-- `BSET Rn, Rd` (R201). -/
  | bsetRegReg (rn rd : Reg8)
  /-- `BNOT Rn, Rd` (R203). -/
  | bnotRegReg (rn rd : Reg8)
  /-- `BCLR Rn, Rd` (R202). -/
  | bclrRegReg (rn rd : Reg8)
  /-- `BTST Rn, Rd` (R204). -/
  | btstRegReg (rn rd : Reg8)
  /-- `BST #xx:3, Rd` (R213). -/
  | bstImmReg (imm : Imm3) (rd : Reg8)
  /-- `BIST #xx:3, Rd` (R214). -/
  | bistImmReg (imm : Imm3) (rd : Reg8)
  /-- `BSET #xx:3, Rd` (R201). -/
  | bsetImmReg (imm : Imm3) (rd : Reg8)
  /-- `BNOT #xx:3, Rd` (R203). -/
  | bnotImmReg (imm : Imm3) (rd : Reg8)
  /-- `BCLR #xx:3, Rd` (R202). -/
  | bclrImmReg (imm : Imm3) (rd : Reg8)
  /-- `BTST #xx:3, Rd` (R204). -/
  | btstImmReg (imm : Imm3) (rd : Reg8)
  /-- `BOR #xx:3, Rd` (R207). -/
  | borImmReg (imm : Imm3) (rd : Reg8)
  /-- `BIOR #xx:3, Rd` (R208). -/
  | biorImmReg (imm : Imm3) (rd : Reg8)
  /-- `BXOR #xx:3, Rd` (R209). -/
  | bxorImmReg (imm : Imm3) (rd : Reg8)
  /-- `BIXOR #xx:3, Rd` (R210). -/
  | bixorImmReg (imm : Imm3) (rd : Reg8)
  /-- `BAND #xx:3, Rd` (R205). -/
  | bandImmReg (imm : Imm3) (rd : Reg8)
  /-- `BIAND #xx:3, Rd` (R206). -/
  | biandImmReg (imm : Imm3) (rd : Reg8)
  /-- `BLD #xx:3, Rd` (R211). -/
  | bldImmReg (imm : Imm3) (rd : Reg8)
  /-- `BILD #xx:3, Rd` (R212). -/
  | bildImmReg (imm : Imm3) (rd : Reg8)
  /-- `MOV.B @Rs, Rd` (R124). -/
  | movBLoadInd (rs : Reg16) (rd : Reg8)
  /-- `MOV.B Rs, @Rd` (R131). -/
  | movBStoreInd (rs : Reg8) (rd : Reg16)
  /-- `MOV.W @Rs, Rd` (R130). -/
  | movWLoadInd (rs rd : Reg16)
  /-- `MOV.W Rs, @Rd` (R139). -/
  | movWStoreInd (rs rd : Reg16)
  /-- `MOV.B @aa:16, Rd` (R128). -/
  | movBLoadAbs16 (abs : Word) (rd : Reg8)
  /-- `MOV.B Rs, @aa:16` (R135). -/
  | movBStoreAbs16 (rs : Reg8) (abs : Word)
  /-- `MOV.W @aa:16, Rd` (R138). -/
  | movWLoadAbs16 (abs : Word) (rd : Reg16)
  /-- `MOV.W Rs, @aa:16` (R142). -/
  | movWStoreAbs16 (rs : Reg16) (abs : Word)
  /-- `MOV.B @Rs+, Rd` (R126). -/
  | movBPostInc (rs : Reg16) (rd : Reg8)
  /-- `MOV.B Rs, @-Rd` (R133). -/
  | movBPreDec (rs : Reg8) (rd : Reg16)
  /-- `MOV.W @Rs+, Rd` (R137). -/
  | movWPostInc (rs rd : Reg16)
  /-- `MOV.W Rs, @-Rd` (R141). -/
  | movWPreDec (rs rd : Reg16)
  /-- `POP Rn` (R143). -/
  | pop (rn : Reg16)
  /-- `PUSH Rn` (R144). -/
  | push (rn : Reg16)
  /-- `MOV.B @(d:16, Rs), Rd` (R125). -/
  | movBLoadDisp (disp : Word) (rs : Reg16) (rd : Reg8)
  /-- `MOV.B Rs, @(d:16, Rd)` (R132). -/
  | movBStoreDisp (rs : Reg8) (disp : Word) (rd : Reg16)
  /-- `MOV.W @(d:16, Rs), Rd` (R136). -/
  | movWLoadDisp (disp : Word) (rs rd : Reg16)
  /-- `MOV.W Rs, @(d:16, Rd)` (R140). -/
  | movWStoreDisp (rs : Reg16) (disp : Word) (rd : Reg16)
  /-- `MOV.W #xx:16, Rd` (R129). -/
  | movWImm (imm : Word) (rd : Reg16)
  /-- `EEPMOV` (R285). -/
  | eepmov
  /-- `BTST #xx:3, @Rd` (R204). -/
  | btstImmInd (imm : Imm3) (rd : Reg16)
  /-- `BTST #xx:3, @aa:8` (R204). -/
  | btstImmAbs (imm : Imm3) (abs : Byte)
  /-- `BOR #xx:3, @Rd` (R207). -/
  | borImmInd (imm : Imm3) (rd : Reg16)
  /-- `BOR #xx:3, @aa:8` (R207). -/
  | borImmAbs (imm : Imm3) (abs : Byte)
  /-- `BIOR #xx:3, @Rd` (R208). -/
  | biorImmInd (imm : Imm3) (rd : Reg16)
  /-- `BIOR #xx:3, @aa:8` (R208). -/
  | biorImmAbs (imm : Imm3) (abs : Byte)
  /-- `BXOR #xx:3, @Rd` (R209). -/
  | bxorImmInd (imm : Imm3) (rd : Reg16)
  /-- `BXOR #xx:3, @aa:8` (R209). -/
  | bxorImmAbs (imm : Imm3) (abs : Byte)
  /-- `BIXOR #xx:3, @Rd` (R210). -/
  | bixorImmInd (imm : Imm3) (rd : Reg16)
  /-- `BIXOR #xx:3, @aa:8` (R210). -/
  | bixorImmAbs (imm : Imm3) (abs : Byte)
  /-- `BAND #xx:3, @Rd` (R205). -/
  | bandImmInd (imm : Imm3) (rd : Reg16)
  /-- `BAND #xx:3, @aa:8` (R205). -/
  | bandImmAbs (imm : Imm3) (abs : Byte)
  /-- `BIAND #xx:3, @Rd` (R206). -/
  | biandImmInd (imm : Imm3) (rd : Reg16)
  /-- `BIAND #xx:3, @aa:8` (R206). -/
  | biandImmAbs (imm : Imm3) (abs : Byte)
  /-- `BLD #xx:3, @Rd` (R211). -/
  | bldImmInd (imm : Imm3) (rd : Reg16)
  /-- `BLD #xx:3, @aa:8` (R211). -/
  | bldImmAbs (imm : Imm3) (abs : Byte)
  /-- `BILD #xx:3, @Rd` (R212). -/
  | bildImmInd (imm : Imm3) (rd : Reg16)
  /-- `BILD #xx:3, @aa:8` (R212). -/
  | bildImmAbs (imm : Imm3) (abs : Byte)
  /-- `BTST Rn, @Rd` (R204). -/
  | btstRegInd (rn : Reg8) (rd : Reg16)
  /-- `BTST Rn, @aa:8` (R204). -/
  | btstRegAbs (rn : Reg8) (abs : Byte)
  /-- `BST #xx:3, @Rd` (R213). -/
  | bstImmInd (imm : Imm3) (rd : Reg16)
  /-- `BST #xx:3, @aa:8` (R213). -/
  | bstImmAbs (imm : Imm3) (abs : Byte)
  /-- `BIST #xx:3, @Rd` (R214). -/
  | bistImmInd (imm : Imm3) (rd : Reg16)
  /-- `BIST #xx:3, @aa:8` (R214). -/
  | bistImmAbs (imm : Imm3) (abs : Byte)
  /-- `BSET #xx:3, @Rd` (R201). -/
  | bsetImmInd (imm : Imm3) (rd : Reg16)
  /-- `BSET #xx:3, @aa:8` (R201). -/
  | bsetImmAbs (imm : Imm3) (abs : Byte)
  /-- `BNOT #xx:3, @Rd` (R203). -/
  | bnotImmInd (imm : Imm3) (rd : Reg16)
  /-- `BNOT #xx:3, @aa:8` (R203). -/
  | bnotImmAbs (imm : Imm3) (abs : Byte)
  /-- `BCLR #xx:3, @Rd` (R202). -/
  | bclrImmInd (imm : Imm3) (rd : Reg16)
  /-- `BCLR #xx:3, @aa:8` (R202). -/
  | bclrImmAbs (imm : Imm3) (abs : Byte)
  /-- `BSET Rn, @Rd` (R201). -/
  | bsetRegInd (rn : Reg8) (rd : Reg16)
  /-- `BSET Rn, @aa:8` (R201). -/
  | bsetRegAbs (rn : Reg8) (abs : Byte)
  /-- `BNOT Rn, @Rd` (R203). -/
  | bnotRegInd (rn : Reg8) (rd : Reg16)
  /-- `BNOT Rn, @aa:8` (R203). -/
  | bnotRegAbs (rn : Reg8) (abs : Byte)
  /-- `BCLR Rn, @Rd` (R202). -/
  | bclrRegInd (rn : Reg8) (rd : Reg16)
  /-- `BCLR Rn, @aa:8` (R202). -/
  | bclrRegAbs (rn : Reg8) (abs : Byte)
  /-- `ADD.B #xx:8, Rd` (R151). -/
  | addBImm (imm : Byte) (rd : Reg8)
  /-- `ADDX #xx:8, Rd` (R155). -/
  | addxImm (imm : Byte) (rd : Reg8)
  /-- `CMP.B #xx:8, Rd` (R158). -/
  | cmpBImm (imm : Byte) (rd : Reg8)
  /-- `SUBX #xx:8, Rd` (R164). -/
  | subxImm (imm : Byte) (rd : Reg8)
  /-- `OR #xx:8, Rd` (R182). -/
  | orImm (imm : Byte) (rd : Reg8)
  /-- `XOR #xx:8, Rd` (R183). -/
  | xorImm (imm : Byte) (rd : Reg8)
  /-- `AND #xx:8, Rd` (R181). -/
  | andImm (imm : Byte) (rd : Reg8)
  /-- `MOV.B #xx:8, Rd` (R123). -/
  | movBImm (imm : Byte) (rd : Reg8)
  deriving DecidableEq, Repr

end Sys2Proof
end

