-- ==== Sys2Proof/Decode.lean ====
section
/-! DEFINITION. The decoder of spec/30_encoding.md R98, R100, total on any bytes and rejecting by name (R101, R102), the
encoder written from the same code rows, and the host's view of an opcode-table word. -/

namespace Sys2Proof

/-- Why bytes are no instruction. -/
inductive DecodeError where
  /-- Fewer bytes than the instruction has. -/
  | truncated
  /-- One of the ten first bytes that no instruction page assigns (R101). -/
  | unassignedFirstByte
  /-- A bit the code row shows as fixed holds the other value (R102). -/
  | fixedBits
  /-- The second word belongs to no instruction with this first byte (R91, R101). -/
  | secondWord
  deriving DecidableEq, Repr

/-- A decoded instruction or the reason there is none. -/
abbrev Decoded := Except DecodeError Instr

/-- The first bytes of the 4-byte instructions (R81). -/
def isLong (b1 : Byte) : Bool :=
  b1 == 0x5A#8 || b1 == 0x5E#8 || b1 == 0x6A#8 || b1 == 0x6B#8 || b1 == 0x6E#8 || b1 == 0x6F#8 || b1 == 0x79#8 ||
    b1 == 0x7B#8 || b1 == 0x7C#8 || b1 == 0x7D#8 || b1 == 0x7E#8 || b1 == 0x7F#8

/-! The operand formats of R84 and R85: each takes the byte that holds the fields and what to build from them. -/

/-- A fixed second byte. -/
def asFixed (ok : Bool) (i : Instr) : Decoded := if ok then .ok i else .error .fixedBits

/-- `OP_RR`: two 8-bit registers. -/
def asRR (b : Byte) (f : Reg8 → Reg8 → Instr) : Decoded := .ok (f (hiNibble b) (loNibble b))

/-- `OP_WW`: two 16-bit registers, bits 7 and 3 zero. -/
def asWW (b : Byte) (f : Reg16 → Reg16 → Instr) : Decoded :=
  asFixed (!topBit (hiNibble b) && !topBit (loNibble b)) (f (low3 (hiNibble b)) (low3 (loNibble b)))

/-- `OP_RW`: an 8-bit and a 16-bit register, bit 3 zero. -/
def asRW (b : Byte) (f : Reg8 → Reg16 → Instr) : Decoded :=
  asFixed (!topBit (loNibble b)) (f (hiNibble b) (low3 (loNibble b)))

/-- `OP_S_R8` with sub-operation 0. -/
def asSub0 (b : Byte) (f : Reg8 → Instr) : Decoded := asFixed (hiNibble b == 0#4) (f (loNibble b))

/-- `OP_S_R8` with sub-operations 0 and 8. -/
def asSub08 (b : Byte) (f g : Reg8 → Instr) : Decoded :=
  if hiNibble b = 8#4 then .ok (g (loNibble b)) else asSub0 b f

/-- A register nibble `0rd` under the sub-operation nibble `sub`: `OP_S_R16`, `OP_A16_R16`, `OP_I16`. -/
def asSubW (b : Byte) (sub : Nibble) (f : Reg16 → Instr) : Decoded :=
  asFixed (hiNibble b == sub && !topBit (loNibble b)) (f (low3 (loNibble b)))

/-- `OP_S_R16` and `OP_A16_R16` with sub-operations 0 and 8. -/
def asSubW08 (b : Byte) (f g : Reg16 → Instr) : Decoded :=
  if hiNibble b = 8#4 then asSubW b 8#4 g else asSubW b 0#4 f

/-- `OP_JR`: a 16-bit register over a zero nibble. -/
def asJR (b : Byte) (f : Reg16 → Instr) : Decoded :=
  asFixed (!topBit (hiNibble b) && loNibble b == 0#4) (f (low3 (hiNibble b)))

/-- `OP_M_R8`: direction bit, address register, 8-bit data register. -/
def asMR8 (b : Byte) (load : Reg16 → Reg8 → Instr) (store : Reg8 → Reg16 → Instr) : Decoded :=
  .ok (if topBit (hiNibble b) then store (loNibble b) (low3 (hiNibble b)) else load (low3 (hiNibble b)) (loNibble b))

/-- `OP_M_R16`: direction bit, address register, 16-bit data register under a zero bit. -/
def asMR16 (b : Byte) (load store : Reg16 → Reg16 → Instr) : Decoded :=
  asFixed (!topBit (loNibble b))
    (if topBit (hiNibble b) then store (low3 (loNibble b)) (low3 (hiNibble b))
     else load (low3 (hiNibble b)) (low3 (loNibble b)))

/-- `BIT_I_R` with the invert bit fixed 0. -/
def asBit (b : Byte) (f : Imm3 → Reg8 → Instr) : Decoded :=
  asFixed (!topBit (hiNibble b)) (f (low3 (hiNibble b)) (loNibble b))

/-- `BIT_I_R` with an inverting partner `g`. -/
def asBitInv (b : Byte) (f g : Imm3 → Reg8 → Instr) : Decoded :=
  .ok (if topBit (hiNibble b) then g (low3 (hiNibble b)) (loNibble b) else f (low3 (hiNibble b)) (loNibble b))

/-- The 4th byte `0i 0`: a bit number with the invert bit fixed 0. -/
def asBitM (b : Byte) (f : Imm3 → Instr) : Decoded :=
  asFixed (!topBit (hiNibble b) && loNibble b == 0#4) (f (low3 (hiNibble b)))

/-- The 4th byte `0i 0` or `1i 0`. -/
def asBitMInv (b : Byte) (f g : Imm3 → Instr) : Decoded :=
  asFixed (loNibble b == 0#4) (if topBit (hiNibble b) then g (low3 (hiNibble b)) else f (low3 (hiNibble b)))

/-- The 4th byte `rn 0`. -/
def asBitMReg (b : Byte) (f : Reg8 → Instr) : Decoded := asFixed (loNibble b == 0#4) (f (hiNibble b))

/-! The operation code map of R98, by the first byte's two nibbles. -/

/-- First bytes H'00 to H'0F. -/
def decode0x (lo : Nat) (b2 : Byte) : Decoded :=
  match lo with
  | 0x0 => asFixed (b2 == 0x00#8) .nop
  | 0x1 => asFixed (b2 == 0x80#8) .sleep
  | 0x2 => asSub0 b2 .stc
  | 0x3 => asSub0 b2 .ldcReg
  | 0x4 => .ok (.orc b2)
  | 0x5 => .ok (.xorc b2)
  | 0x6 => .ok (.andc b2)
  | 0x7 => .ok (.ldcImm b2)
  | 0x8 => asRR b2 .addBReg
  | 0x9 => asWW b2 .addW
  | 0xA => asSub0 b2 .inc
  | 0xB => asSubW08 b2 .adds1 .adds2
  | 0xC => asRR b2 .movBReg
  | 0xD => asWW b2 .movWReg
  | 0xE => asRR b2 .addxReg
  | _ => asSub0 b2 .daa

/-- First bytes H'10 to H'1F. -/
def decode1x (lo : Nat) (b2 : Byte) : Decoded :=
  match lo with
  | 0x0 => asSub08 b2 .shll .shal
  | 0x1 => asSub08 b2 .shlr .shar
  | 0x2 => asSub08 b2 .rotxl .rotl
  | 0x3 => asSub08 b2 .rotxr .rotr
  | 0x4 => asRR b2 .orReg
  | 0x5 => asRR b2 .xorReg
  | 0x6 => asRR b2 .andReg
  | 0x7 => asSub08 b2 .notReg .neg
  | 0x8 => asRR b2 .subB
  | 0x9 => asWW b2 .subW
  | 0xA => asSub0 b2 .dec
  | 0xB => asSubW08 b2 .subs1 .subs2
  | 0xC => asRR b2 .cmpBReg
  | 0xD => asWW b2 .cmpW
  | 0xE => asRR b2 .subxReg
  | _ => asSub0 b2 .das

/-- First bytes H'40 to H'4F: Bcc, by the condition field (spec/44_branch.md R252). -/
def decode4x (lo : Nat) (d : Byte) : Decoded :=
  .ok (match lo with
    | 0x0 => .bra d
    | 0x1 => .brn d
    | 0x2 => .bhi d
    | 0x3 => .bls d
    | 0x4 => .bcc d
    | 0x5 => .bcs d
    | 0x6 => .bne d
    | 0x7 => .beq d
    | 0x8 => .bvc d
    | 0x9 => .bvs d
    | 0xA => .bpl d
    | 0xB => .bmi d
    | 0xC => .bge d
    | 0xD => .blt d
    | 0xE => .bgt d
    | _ => .ble d)

/-- The 2-byte instructions with first bytes H'50 to H'5F. -/
def decode5x (lo : Nat) (b2 : Byte) : Decoded :=
  match lo with
  | 0x0 => asRW b2 .mulxu
  | 0x1 => asRW b2 .divxu
  | 0x4 => asFixed (b2 == 0x70#8) .rts
  | 0x5 => .ok (.bsr b2)
  | 0x6 => asFixed (b2 == 0x70#8) .rte
  | 0x9 => asJR b2 .jmpInd
  | 0xB => .ok (.jmpMem b2)
  | 0xD => asJR b2 .jsrInd
  | 0xF => .ok (.jsrMem b2)
  | _ => .error .unassignedFirstByte

/-- `MOV.W @Rs+, Rd`, which is POP when rs = 7 (R107 (c)). -/
def movWPostIncOrPop (rs rd : Reg16) : Instr := if rs = 7#3 then .pop rd else .movWPostInc rs rd

/-- `MOV.W Rs, @-Rd`, which is PUSH when rd = 7 (R107 (c)). -/
def movWPreDecOrPush (rs rd : Reg16) : Instr := if rd = 7#3 then .push rs else .movWPreDec rs rd

/-- The 2-byte instructions with first bytes H'60 to H'6F. -/
def decode6x (lo : Nat) (b2 : Byte) : Decoded :=
  match lo with
  | 0x0 => asRR b2 .bsetRegReg
  | 0x1 => asRR b2 .bnotRegReg
  | 0x2 => asRR b2 .bclrRegReg
  | 0x3 => asRR b2 .btstRegReg
  | 0x7 => asBitInv b2 .bstImmReg .bistImmReg
  | 0x8 => asMR8 b2 .movBLoadInd .movBStoreInd
  | 0x9 => asMR16 b2 .movWLoadInd .movWStoreInd
  | 0xC => asMR8 b2 .movBPostInc .movBPreDec
  | 0xD => asMR16 b2 movWPostIncOrPop movWPreDecOrPush
  | _ => .error .unassignedFirstByte

/-- The 2-byte instructions with first bytes H'70 to H'7F. -/
def decode7x (lo : Nat) (b2 : Byte) : Decoded :=
  match lo with
  | 0x0 => asBit b2 .bsetImmReg
  | 0x1 => asBit b2 .bnotImmReg
  | 0x2 => asBit b2 .bclrImmReg
  | 0x3 => asBit b2 .btstImmReg
  | 0x4 => asBitInv b2 .borImmReg .biorImmReg
  | 0x5 => asBitInv b2 .bxorImmReg .bixorImmReg
  | 0x6 => asBitInv b2 .bandImmReg .biandImmReg
  | 0x7 => asBitInv b2 .bldImmReg .bildImmReg
  | _ => .error .unassignedFirstByte

/-- The 2-byte instructions, from their two bytes (R98). -/
def decodeShort (b1 b2 : Byte) : Decoded :=
  match (hiNibble b1).toNat with
  | 0x0 => decode0x (loNibble b1).toNat b2
  | 0x1 => decode1x (loNibble b1).toNat b2
  | 0x2 => .ok (.movBLoadAbs8 (loNibble b1) b2)
  | 0x3 => .ok (.movBStoreAbs8 (loNibble b1) b2)
  | 0x4 => decode4x (loNibble b1).toNat b2
  | 0x5 => decode5x (loNibble b1).toNat b2
  | 0x6 => decode6x (loNibble b1).toNat b2
  | 0x7 => decode7x (loNibble b1).toNat b2
  | 0x8 => .ok (.addBImm b2 (loNibble b1))
  | 0x9 => .ok (.addxImm b2 (loNibble b1))
  | 0xA => .ok (.cmpBImm b2 (loNibble b1))
  | 0xB => .ok (.subxImm b2 (loNibble b1))
  | 0xC => .ok (.orImm b2 (loNibble b1))
  | 0xD => .ok (.xorImm b2 (loNibble b1))
  | 0xE => .ok (.andImm b2 (loNibble b1))
  | _ => .ok (.movBImm b2 (loNibble b1))

/-- First byte H'7C: a bit instruction that reads `@Rd` (R91). -/
def decodeBitReadInd (rd : Reg16) (b3 b4 : Byte) : Decoded :=
  match b3.toNat with
  | 0x63 => asBitMReg b4 (.btstRegInd · rd)
  | 0x73 => asBitM b4 (.btstImmInd · rd)
  | 0x74 => asBitMInv b4 (.borImmInd · rd) (.biorImmInd · rd)
  | 0x75 => asBitMInv b4 (.bxorImmInd · rd) (.bixorImmInd · rd)
  | 0x76 => asBitMInv b4 (.bandImmInd · rd) (.biandImmInd · rd)
  | 0x77 => asBitMInv b4 (.bldImmInd · rd) (.bildImmInd · rd)
  | _ => .error .secondWord

/-- First byte H'7E: a bit instruction that reads `@aa:8` (R91). -/
def decodeBitReadAbs (abs b3 b4 : Byte) : Decoded :=
  match b3.toNat with
  | 0x63 => asBitMReg b4 (.btstRegAbs · abs)
  | 0x73 => asBitM b4 (.btstImmAbs · abs)
  | 0x74 => asBitMInv b4 (.borImmAbs · abs) (.biorImmAbs · abs)
  | 0x75 => asBitMInv b4 (.bxorImmAbs · abs) (.bixorImmAbs · abs)
  | 0x76 => asBitMInv b4 (.bandImmAbs · abs) (.biandImmAbs · abs)
  | 0x77 => asBitMInv b4 (.bldImmAbs · abs) (.bildImmAbs · abs)
  | _ => .error .secondWord

/-- First byte H'7D: a bit instruction that reads and writes `@Rd` (R91). -/
def decodeBitModifyInd (rd : Reg16) (b3 b4 : Byte) : Decoded :=
  match b3.toNat with
  | 0x60 => asBitMReg b4 (.bsetRegInd · rd)
  | 0x61 => asBitMReg b4 (.bnotRegInd · rd)
  | 0x62 => asBitMReg b4 (.bclrRegInd · rd)
  | 0x67 => asBitMInv b4 (.bstImmInd · rd) (.bistImmInd · rd)
  | 0x70 => asBitM b4 (.bsetImmInd · rd)
  | 0x71 => asBitM b4 (.bnotImmInd · rd)
  | 0x72 => asBitM b4 (.bclrImmInd · rd)
  | _ => .error .secondWord

/-- First byte H'7F: a bit instruction that reads and writes `@aa:8` (R91). -/
def decodeBitModifyAbs (abs b3 b4 : Byte) : Decoded :=
  match b3.toNat with
  | 0x60 => asBitMReg b4 (.bsetRegAbs · abs)
  | 0x61 => asBitMReg b4 (.bnotRegAbs · abs)
  | 0x62 => asBitMReg b4 (.bclrRegAbs · abs)
  | 0x67 => asBitMInv b4 (.bstImmAbs · abs) (.bistImmAbs · abs)
  | 0x70 => asBitM b4 (.bsetImmAbs · abs)
  | 0x71 => asBitM b4 (.bnotImmAbs · abs)
  | 0x72 => asBitM b4 (.bclrImmAbs · abs)
  | _ => .error .secondWord

/-- The register nibble over a zero nibble that follows H'7C and H'7D, then `f` of the register. -/
def withIndByte (b2 : Byte) (f : Reg16 → Decoded) : Decoded :=
  if !topBit (hiNibble b2) && loNibble b2 == 0#4 then f (low3 (hiNibble b2)) else .error .fixedBits

/-- The 4-byte instructions, from their four bytes (R98). -/
def decodeLong (b1 b2 b3 b4 : Byte) : Decoded :=
  match b1.toNat with
  | 0x5A => asFixed (b2 == 0x00#8) (.jmpAbs (joinBytes b3 b4))
  | 0x5E => asFixed (b2 == 0x00#8) (.jsrAbs (joinBytes b3 b4))
  | 0x6A => asSub08 b2 (.movBLoadAbs16 (joinBytes b3 b4)) (.movBStoreAbs16 · (joinBytes b3 b4))
  | 0x6B => asSubW08 b2 (.movWLoadAbs16 (joinBytes b3 b4)) (.movWStoreAbs16 · (joinBytes b3 b4))
  | 0x6E => asMR8 b2 (.movBLoadDisp (joinBytes b3 b4)) (.movBStoreDisp · (joinBytes b3 b4))
  | 0x6F => asMR16 b2 (.movWLoadDisp (joinBytes b3 b4)) (.movWStoreDisp · (joinBytes b3 b4))
  | 0x79 => asSubW b2 0#4 (.movWImm (joinBytes b3 b4))
  | 0x7B => if b2 = 0x5C#8 ∧ b3 = 0x59#8 ∧ b4 = 0x8F#8 then .ok .eepmov else .error .secondWord
  | 0x7C => withIndByte b2 (decodeBitReadInd · b3 b4)
  | 0x7D => withIndByte b2 (decodeBitModifyInd · b3 b4)
  | 0x7E => decodeBitReadAbs b2 b3 b4
  | 0x7F => decodeBitModifyAbs b2 b3 b4
  | _ => .error .unassignedFirstByte

/-- Decodes the instruction at the head of `bs`: the instruction and the bytes after it, or why there is none (R100). -/
def decode (bs : List Byte) : Except DecodeError (Instr × List Byte) :=
  match bs with
  | b1 :: b2 :: rest =>
    if isLong b1 then
      match rest with
      | b3 :: b4 :: rest' => (decodeLong b1 b2 b3 b4).map (·, rest')
      | _ => .error .truncated
    else (decodeShort b1 b2).map (·, rest)
  | _ => .error .truncated

/-- The words of an instruction, from the code rows of R98. -/
def encode (i : Instr) : List Word :=
  match i with
  | .nop => [joinBytes 0x00#8 0x00#8]
  | .sleep => [joinBytes 0x01#8 0x80#8]
  | .stc rd => [joinBytes 0x02#8 (joinNibbles 0#4 rd)]
  | .ldcReg rs => [joinBytes 0x03#8 (joinNibbles 0#4 rs)]
  | .orc imm => [joinBytes 0x04#8 imm]
  | .xorc imm => [joinBytes 0x05#8 imm]
  | .andc imm => [joinBytes 0x06#8 imm]
  | .ldcImm imm => [joinBytes 0x07#8 imm]
  | .addBReg rs rd => [joinBytes 0x08#8 (joinNibbles rs rd)]
  | .addW rs rd => [joinBytes 0x09#8 (joinNibbles (nibbleOf false rs) (nibbleOf false rd))]
  | .inc rd => [joinBytes 0x0A#8 (joinNibbles 0#4 rd)]
  | .adds1 rd => [joinBytes 0x0B#8 (joinNibbles 0#4 (nibbleOf false rd))]
  | .adds2 rd => [joinBytes 0x0B#8 (joinNibbles 8#4 (nibbleOf false rd))]
  | .movBReg rs rd => [joinBytes 0x0C#8 (joinNibbles rs rd)]
  | .movWReg rs rd => [joinBytes 0x0D#8 (joinNibbles (nibbleOf false rs) (nibbleOf false rd))]
  | .addxReg rs rd => [joinBytes 0x0E#8 (joinNibbles rs rd)]
  | .daa rd => [joinBytes 0x0F#8 (joinNibbles 0#4 rd)]
  | .shll rd => [joinBytes 0x10#8 (joinNibbles 0#4 rd)]
  | .shal rd => [joinBytes 0x10#8 (joinNibbles 8#4 rd)]
  | .shlr rd => [joinBytes 0x11#8 (joinNibbles 0#4 rd)]
  | .shar rd => [joinBytes 0x11#8 (joinNibbles 8#4 rd)]
  | .rotxl rd => [joinBytes 0x12#8 (joinNibbles 0#4 rd)]
  | .rotl rd => [joinBytes 0x12#8 (joinNibbles 8#4 rd)]
  | .rotxr rd => [joinBytes 0x13#8 (joinNibbles 0#4 rd)]
  | .rotr rd => [joinBytes 0x13#8 (joinNibbles 8#4 rd)]
  | .orReg rs rd => [joinBytes 0x14#8 (joinNibbles rs rd)]
  | .xorReg rs rd => [joinBytes 0x15#8 (joinNibbles rs rd)]
  | .andReg rs rd => [joinBytes 0x16#8 (joinNibbles rs rd)]
  | .notReg rd => [joinBytes 0x17#8 (joinNibbles 0#4 rd)]
  | .neg rd => [joinBytes 0x17#8 (joinNibbles 8#4 rd)]
  | .subB rs rd => [joinBytes 0x18#8 (joinNibbles rs rd)]
  | .subW rs rd => [joinBytes 0x19#8 (joinNibbles (nibbleOf false rs) (nibbleOf false rd))]
  | .dec rd => [joinBytes 0x1A#8 (joinNibbles 0#4 rd)]
  | .subs1 rd => [joinBytes 0x1B#8 (joinNibbles 0#4 (nibbleOf false rd))]
  | .subs2 rd => [joinBytes 0x1B#8 (joinNibbles 8#4 (nibbleOf false rd))]
  | .cmpBReg rs rd => [joinBytes 0x1C#8 (joinNibbles rs rd)]
  | .cmpW rs rd => [joinBytes 0x1D#8 (joinNibbles (nibbleOf false rs) (nibbleOf false rd))]
  | .subxReg rs rd => [joinBytes 0x1E#8 (joinNibbles rs rd)]
  | .das rd => [joinBytes 0x1F#8 (joinNibbles 0#4 rd)]
  | .movBLoadAbs8 rd abs => [joinBytes (joinNibbles 2#4 rd) abs]
  | .movBStoreAbs8 rs abs => [joinBytes (joinNibbles 3#4 rs) abs]
  | .bra disp => [joinBytes 0x40#8 disp]
  | .brn disp => [joinBytes 0x41#8 disp]
  | .bhi disp => [joinBytes 0x42#8 disp]
  | .bls disp => [joinBytes 0x43#8 disp]
  | .bcc disp => [joinBytes 0x44#8 disp]
  | .bcs disp => [joinBytes 0x45#8 disp]
  | .bne disp => [joinBytes 0x46#8 disp]
  | .beq disp => [joinBytes 0x47#8 disp]
  | .bvc disp => [joinBytes 0x48#8 disp]
  | .bvs disp => [joinBytes 0x49#8 disp]
  | .bpl disp => [joinBytes 0x4A#8 disp]
  | .bmi disp => [joinBytes 0x4B#8 disp]
  | .bge disp => [joinBytes 0x4C#8 disp]
  | .blt disp => [joinBytes 0x4D#8 disp]
  | .bgt disp => [joinBytes 0x4E#8 disp]
  | .ble disp => [joinBytes 0x4F#8 disp]
  | .mulxu rs rd => [joinBytes 0x50#8 (joinNibbles rs (nibbleOf false rd))]
  | .divxu rs rd => [joinBytes 0x51#8 (joinNibbles rs (nibbleOf false rd))]
  | .rts => [joinBytes 0x54#8 0x70#8]
  | .bsr disp => [joinBytes 0x55#8 disp]
  | .rte => [joinBytes 0x56#8 0x70#8]
  | .jmpInd rn => [joinBytes 0x59#8 (joinNibbles (nibbleOf false rn) 0#4)]
  | .jmpAbs abs => [joinBytes 0x5A#8 0x00#8, abs]
  | .jmpMem abs => [joinBytes 0x5B#8 abs]
  | .jsrInd rn => [joinBytes 0x5D#8 (joinNibbles (nibbleOf false rn) 0#4)]
  | .jsrAbs abs => [joinBytes 0x5E#8 0x00#8, abs]
  | .jsrMem abs => [joinBytes 0x5F#8 abs]
  | .bsetRegReg rn rd => [joinBytes 0x60#8 (joinNibbles rn rd)]
  | .bnotRegReg rn rd => [joinBytes 0x61#8 (joinNibbles rn rd)]
  | .bclrRegReg rn rd => [joinBytes 0x62#8 (joinNibbles rn rd)]
  | .btstRegReg rn rd => [joinBytes 0x63#8 (joinNibbles rn rd)]
  | .bstImmReg imm rd => [joinBytes 0x67#8 (joinNibbles (nibbleOf false imm) rd)]
  | .bistImmReg imm rd => [joinBytes 0x67#8 (joinNibbles (nibbleOf true imm) rd)]
  | .bsetImmReg imm rd => [joinBytes 0x70#8 (joinNibbles (nibbleOf false imm) rd)]
  | .bnotImmReg imm rd => [joinBytes 0x71#8 (joinNibbles (nibbleOf false imm) rd)]
  | .bclrImmReg imm rd => [joinBytes 0x72#8 (joinNibbles (nibbleOf false imm) rd)]
  | .btstImmReg imm rd => [joinBytes 0x73#8 (joinNibbles (nibbleOf false imm) rd)]
  | .borImmReg imm rd => [joinBytes 0x74#8 (joinNibbles (nibbleOf false imm) rd)]
  | .biorImmReg imm rd => [joinBytes 0x74#8 (joinNibbles (nibbleOf true imm) rd)]
  | .bxorImmReg imm rd => [joinBytes 0x75#8 (joinNibbles (nibbleOf false imm) rd)]
  | .bixorImmReg imm rd => [joinBytes 0x75#8 (joinNibbles (nibbleOf true imm) rd)]
  | .bandImmReg imm rd => [joinBytes 0x76#8 (joinNibbles (nibbleOf false imm) rd)]
  | .biandImmReg imm rd => [joinBytes 0x76#8 (joinNibbles (nibbleOf true imm) rd)]
  | .bldImmReg imm rd => [joinBytes 0x77#8 (joinNibbles (nibbleOf false imm) rd)]
  | .bildImmReg imm rd => [joinBytes 0x77#8 (joinNibbles (nibbleOf true imm) rd)]
  | .movBLoadInd rs rd => [joinBytes 0x68#8 (joinNibbles (nibbleOf false rs) rd)]
  | .movBStoreInd rs rd => [joinBytes 0x68#8 (joinNibbles (nibbleOf true rd) rs)]
  | .movWLoadInd rs rd => [joinBytes 0x69#8 (joinNibbles (nibbleOf false rs) (nibbleOf false rd))]
  | .movWStoreInd rs rd => [joinBytes 0x69#8 (joinNibbles (nibbleOf true rd) (nibbleOf false rs))]
  | .movBLoadAbs16 abs rd => [joinBytes 0x6A#8 (joinNibbles 0#4 rd), abs]
  | .movBStoreAbs16 rs abs => [joinBytes 0x6A#8 (joinNibbles 8#4 rs), abs]
  | .movWLoadAbs16 abs rd => [joinBytes 0x6B#8 (joinNibbles 0#4 (nibbleOf false rd)), abs]
  | .movWStoreAbs16 rs abs => [joinBytes 0x6B#8 (joinNibbles 8#4 (nibbleOf false rs)), abs]
  | .movBPostInc rs rd => [joinBytes 0x6C#8 (joinNibbles (nibbleOf false rs) rd)]
  | .movBPreDec rs rd => [joinBytes 0x6C#8 (joinNibbles (nibbleOf true rd) rs)]
  | .movWPostInc rs rd => [joinBytes 0x6D#8 (joinNibbles (nibbleOf false rs) (nibbleOf false rd))]
  | .movWPreDec rs rd => [joinBytes 0x6D#8 (joinNibbles (nibbleOf true rd) (nibbleOf false rs))]
  | .pop rn => [joinBytes 0x6D#8 (joinNibbles 7#4 (nibbleOf false rn))]
  | .push rn => [joinBytes 0x6D#8 (joinNibbles 15#4 (nibbleOf false rn))]
  | .movBLoadDisp disp rs rd => [joinBytes 0x6E#8 (joinNibbles (nibbleOf false rs) rd), disp]
  | .movBStoreDisp rs disp rd => [joinBytes 0x6E#8 (joinNibbles (nibbleOf true rd) rs), disp]
  | .movWLoadDisp disp rs rd => [joinBytes 0x6F#8 (joinNibbles (nibbleOf false rs) (nibbleOf false rd)), disp]
  | .movWStoreDisp rs disp rd => [joinBytes 0x6F#8 (joinNibbles (nibbleOf true rd) (nibbleOf false rs)), disp]
  | .movWImm imm rd => [joinBytes 0x79#8 (joinNibbles 0#4 (nibbleOf false rd)), imm]
  | .eepmov => [joinBytes 0x7B#8 0x5C#8, joinBytes 0x59#8 0x8F#8]
  | .btstImmInd imm rd => [joinBytes 0x7C#8 (joinNibbles (nibbleOf false rd) 0#4), joinBytes 0x73#8 (joinNibbles (nibbleOf false imm) 0#4)]
  | .btstImmAbs imm abs => [joinBytes 0x7E#8 abs, joinBytes 0x73#8 (joinNibbles (nibbleOf false imm) 0#4)]
  | .borImmInd imm rd => [joinBytes 0x7C#8 (joinNibbles (nibbleOf false rd) 0#4), joinBytes 0x74#8 (joinNibbles (nibbleOf false imm) 0#4)]
  | .borImmAbs imm abs => [joinBytes 0x7E#8 abs, joinBytes 0x74#8 (joinNibbles (nibbleOf false imm) 0#4)]
  | .biorImmInd imm rd => [joinBytes 0x7C#8 (joinNibbles (nibbleOf false rd) 0#4), joinBytes 0x74#8 (joinNibbles (nibbleOf true imm) 0#4)]
  | .biorImmAbs imm abs => [joinBytes 0x7E#8 abs, joinBytes 0x74#8 (joinNibbles (nibbleOf true imm) 0#4)]
  | .bxorImmInd imm rd => [joinBytes 0x7C#8 (joinNibbles (nibbleOf false rd) 0#4), joinBytes 0x75#8 (joinNibbles (nibbleOf false imm) 0#4)]
  | .bxorImmAbs imm abs => [joinBytes 0x7E#8 abs, joinBytes 0x75#8 (joinNibbles (nibbleOf false imm) 0#4)]
  | .bixorImmInd imm rd => [joinBytes 0x7C#8 (joinNibbles (nibbleOf false rd) 0#4), joinBytes 0x75#8 (joinNibbles (nibbleOf true imm) 0#4)]
  | .bixorImmAbs imm abs => [joinBytes 0x7E#8 abs, joinBytes 0x75#8 (joinNibbles (nibbleOf true imm) 0#4)]
  | .bandImmInd imm rd => [joinBytes 0x7C#8 (joinNibbles (nibbleOf false rd) 0#4), joinBytes 0x76#8 (joinNibbles (nibbleOf false imm) 0#4)]
  | .bandImmAbs imm abs => [joinBytes 0x7E#8 abs, joinBytes 0x76#8 (joinNibbles (nibbleOf false imm) 0#4)]
  | .biandImmInd imm rd => [joinBytes 0x7C#8 (joinNibbles (nibbleOf false rd) 0#4), joinBytes 0x76#8 (joinNibbles (nibbleOf true imm) 0#4)]
  | .biandImmAbs imm abs => [joinBytes 0x7E#8 abs, joinBytes 0x76#8 (joinNibbles (nibbleOf true imm) 0#4)]
  | .bldImmInd imm rd => [joinBytes 0x7C#8 (joinNibbles (nibbleOf false rd) 0#4), joinBytes 0x77#8 (joinNibbles (nibbleOf false imm) 0#4)]
  | .bldImmAbs imm abs => [joinBytes 0x7E#8 abs, joinBytes 0x77#8 (joinNibbles (nibbleOf false imm) 0#4)]
  | .bildImmInd imm rd => [joinBytes 0x7C#8 (joinNibbles (nibbleOf false rd) 0#4), joinBytes 0x77#8 (joinNibbles (nibbleOf true imm) 0#4)]
  | .bildImmAbs imm abs => [joinBytes 0x7E#8 abs, joinBytes 0x77#8 (joinNibbles (nibbleOf true imm) 0#4)]
  | .btstRegInd rn rd => [joinBytes 0x7C#8 (joinNibbles (nibbleOf false rd) 0#4), joinBytes 0x63#8 (joinNibbles rn 0#4)]
  | .btstRegAbs rn abs => [joinBytes 0x7E#8 abs, joinBytes 0x63#8 (joinNibbles rn 0#4)]
  | .bstImmInd imm rd => [joinBytes 0x7D#8 (joinNibbles (nibbleOf false rd) 0#4), joinBytes 0x67#8 (joinNibbles (nibbleOf false imm) 0#4)]
  | .bstImmAbs imm abs => [joinBytes 0x7F#8 abs, joinBytes 0x67#8 (joinNibbles (nibbleOf false imm) 0#4)]
  | .bistImmInd imm rd => [joinBytes 0x7D#8 (joinNibbles (nibbleOf false rd) 0#4), joinBytes 0x67#8 (joinNibbles (nibbleOf true imm) 0#4)]
  | .bistImmAbs imm abs => [joinBytes 0x7F#8 abs, joinBytes 0x67#8 (joinNibbles (nibbleOf true imm) 0#4)]
  | .bsetImmInd imm rd => [joinBytes 0x7D#8 (joinNibbles (nibbleOf false rd) 0#4), joinBytes 0x70#8 (joinNibbles (nibbleOf false imm) 0#4)]
  | .bsetImmAbs imm abs => [joinBytes 0x7F#8 abs, joinBytes 0x70#8 (joinNibbles (nibbleOf false imm) 0#4)]
  | .bnotImmInd imm rd => [joinBytes 0x7D#8 (joinNibbles (nibbleOf false rd) 0#4), joinBytes 0x71#8 (joinNibbles (nibbleOf false imm) 0#4)]
  | .bnotImmAbs imm abs => [joinBytes 0x7F#8 abs, joinBytes 0x71#8 (joinNibbles (nibbleOf false imm) 0#4)]
  | .bclrImmInd imm rd => [joinBytes 0x7D#8 (joinNibbles (nibbleOf false rd) 0#4), joinBytes 0x72#8 (joinNibbles (nibbleOf false imm) 0#4)]
  | .bclrImmAbs imm abs => [joinBytes 0x7F#8 abs, joinBytes 0x72#8 (joinNibbles (nibbleOf false imm) 0#4)]
  | .bsetRegInd rn rd => [joinBytes 0x7D#8 (joinNibbles (nibbleOf false rd) 0#4), joinBytes 0x60#8 (joinNibbles rn 0#4)]
  | .bsetRegAbs rn abs => [joinBytes 0x7F#8 abs, joinBytes 0x60#8 (joinNibbles rn 0#4)]
  | .bnotRegInd rn rd => [joinBytes 0x7D#8 (joinNibbles (nibbleOf false rd) 0#4), joinBytes 0x61#8 (joinNibbles rn 0#4)]
  | .bnotRegAbs rn abs => [joinBytes 0x7F#8 abs, joinBytes 0x61#8 (joinNibbles rn 0#4)]
  | .bclrRegInd rn rd => [joinBytes 0x7D#8 (joinNibbles (nibbleOf false rd) 0#4), joinBytes 0x62#8 (joinNibbles rn 0#4)]
  | .bclrRegAbs rn abs => [joinBytes 0x7F#8 abs, joinBytes 0x62#8 (joinNibbles rn 0#4)]
  | .addBImm imm rd => [joinBytes (joinNibbles 8#4 rd) imm]
  | .addxImm imm rd => [joinBytes (joinNibbles 9#4 rd) imm]
  | .cmpBImm imm rd => [joinBytes (joinNibbles 10#4 rd) imm]
  | .subxImm imm rd => [joinBytes (joinNibbles 11#4 rd) imm]
  | .orImm imm rd => [joinBytes (joinNibbles 12#4 rd) imm]
  | .xorImm imm rd => [joinBytes (joinNibbles 13#4 rd) imm]
  | .andImm imm rd => [joinBytes (joinNibbles 14#4 rd) imm]
  | .movBImm imm rd => [joinBytes (joinNibbles 15#4 rd) imm]

/-- The length of an instruction in bytes (R81). -/
def Instr.length (i : Instr) : Addr := BitVec.ofNat 16 (2 * (encode i).length)

/-- The four bytes, as memory holds them, of an instruction whose bits are `w` as spec/opcode_table.json numbers them. A row of
16 bits is the first word and the second is zero. In a row of 32 bits the table's `fixed` fields put the first word at bits 31 to
16; where these are not the first word of a 4-byte instruction, bits 15 to 0 are read as the first word instead, the other
numbering a reader may mean (notes/assumptions/13.md). -/
def tableBytes (nbits w : Nat) : List Byte :=
  let low := BitVec.ofNat 16 w
  let high := BitVec.ofNat 16 (w / 65536)
  if nbits ≤ 16 then storageBytes [low, 0#16]
  else
    match decode (storageBytes [high, low]) with
    | .ok (_, []) => storageBytes [high, low]
    | _ => storageBytes [low, high]

/-- The instruction the decoder reads from the opcode-table word `w`. -/
def decodeTableWord (nbits w : Nat) : Option Instr :=
  match decode (tableBytes nbits w) with
  | .ok (i, _) => some i
  | .error _ => none

end Sys2Proof
end

