-- ==== Sys2Proof/Config.lean ====
section
/-! DEFINITION. What the manual leaves to the chip and what it leaves open: the parameters of
spec/00_scope.md R7 as plain data (`Chip`, held in `State.chip`, notes/assumptions/4.md), and the free values of R13 as
opaque constants (notes/assumptions/7.md). -/

namespace Sys2Proof

/-- The kinds of region of `MEMORY_MAP` (spec/00_scope.md R7, spec/20_memory.md R60). -/
inductive RegionKind where
  /-- ROM or RAM: byte, word and fetch access; `writable` is the sub-parameter `WRITABLE`. -/
  | onChipMemory (writable : Bool)
  /-- On-chip registers: byte access only, answered by the environment. `threeState` is the access time
  (spec/70_reset_and_hazards.md R355), which only `Timing.lean` reads. -/
  | peripheralModule (threeState : Bool)
  /-- Nothing the manual describes. -/
  | unmapped
  deriving DecidableEq, Repr

/-- One region of the memory map: the addresses `base` to `last`, both included. -/
structure Region where
  base : Addr
  last : Addr
  kind : RegionKind
  deriving DecidableEq, Repr

/-- One interrupt source of `IRQ_SOURCES`: the address of its vector-table word and whether it is the nonmaskable
interrupt (spec/00_scope.md R7, spec/60_exceptions.md R308). -/
structure IrqSource where
  vectorAddr : Addr
  isNmi : Bool
  deriving DecidableEq, Repr

/-- The parameters the manual leaves to the chip (spec/00_scope.md R7). No step changes them. -/
structure Chip where
  /-- `MEMORY_MAP`: the first region that holds an address decides; an address in none is unmapped. -/
  map : List Region
  /-- `RESET_VECTOR_ADDR`. -/
  resetVectorAddr : Addr
  /-- `IRQ_SOURCES`: a source is named by its position. -/
  irqSources : List IrqSource
  /-- `ADDX_Z_STICKY` (spec/90_conflicts.md C1). -/
  addxZSticky : Bool
  /-- Whether RAM keeps its contents over a later reset (spec/93_implementation_defined.md U19). -/
  ramKept : Bool
  /-- `HAS_EEPROM` (R7); no rule of the CPU reads it (spec/46_block_transfer.md R286). -/
  hasEeprom : Bool
  /-- The clock frequency in hertz (R7); timing only, no rule reads it. -/
  clockHz : Nat
  deriving DecidableEq, Repr

/-- The chip of `State.reset`: all 64 Kbytes writable on-chip memory, reset vector at H'0000, no interrupt source,
`ADDX_Z_STICKY` true, 5 MHz (the test configuration of spec/95_test_vectors.md; DESIGN CHOICE, notes/assumptions/4.md and
notes/assumptions/3.md; unsafe for a claim that rests on this one chip, safe for a claim over every `Chip`). -/
def Chip.flat : Chip where
  map := [{ base := 0x0000#16, last := 0xFFFF#16, kind := .onChipMemory true }]
  resetVectorAddr := 0x0000#16
  irqSources := []
  addxZSticky := true
  ramKept := false
  hasEeprom := false
  clockHz := 5000000

/-! The free values `unspecified(N)` of spec/00_scope.md R13. Each value of the machine is applied to `State.draws`, which
every draw advances; nothing in Lean can evaluate one. Free values are safe: a claim holds whatever they are. -/

/-- `unspecified(8)` for a byte register: DAA and DAS outside their tables (spec/41_arithmetic.md R168, R169). -/
opaque Config.freeByte : Nat → Byte

/-- `unspecified(16)` for a word register: DIVXU (R173), post-increment loads into the pointer itself
(spec/40_data_transfer.md R145); and the PC of processing that a reset abandons (notes/assumptions/14.md). -/
opaque Config.freeWord : Nat → Word

/-- `unspecified(1)` for each CCR bit, as the eight bits of a byte (R14, R168, R169, R173; spec/10_state.md R49). -/
opaque Config.freeCcr : Nat → Byte

/-- The general registers after a reset event, or of processing it abandons, by draw and register number (spec/10_state.md R49,
spec/60_exceptions.md R303). -/
opaque Config.freeRegister : Nat → Nat → Word

/-- The bytes of RAM after a reset event, by draw and address (spec/10_state.md R49, spec/92_eei_decisions.md D10). -/
opaque Config.freeRam : Nat → Nat → Byte

/-- What a peripheral module answers to a byte read that the script does not answer (spec/20_memory.md R62). -/
opaque Config.freePeripheral : Nat → Byte

/-- The states of a byte access at an unmapped address, external memory included: spec/91_not_in_source.md N8 says to assume none
(DESIGN CHOICE, notes/assumptions/26.md). -/
opaque Config.freeAccessStates : Nat

end Sys2Proof
end

