-- ==== Sys2Proof/Machine/State.lean ====
section
/-! DEFINITION. The state of the machine: everything spec/10_state.md R30 and R45 to R47 give it, the chip's parameters
(spec/00_scope.md R7) and the environment's script (R8) as plain data, and the model's own count of free values drawn; the
reasons a step stops; the state after reset (spec/10_state.md R49). -/

namespace Sys2Proof.Machine

/-- The CPU operation state (spec/10_state.md R46). -/
inductive CpuState where
  /-- RES is low: all processing stops. -/
  | reset
  /-- The transient state of reset and interrupt handling; the model performs it inside one step, so no step ends in it. -/
  | exceptionHandling
  /-- The CPU executes instructions. -/
  | programExecution
  /-- Entered by SLEEP: the CPU waits for an interrupt or a reset. -/
  | powerDown
  deriving DecidableEq, Repr

/-- The RES pin over one step (spec/60_exceptions.md R302, R303): it can go low at any time, at the boundary the step begins at or
while what the step has begun is in progress. -/
inductive ResPin where
  /-- High throughout. -/
  | high
  /-- Low from the boundary on. -/
  | low
  /-- Goes low after the instruction or exception handling begun at the boundary has made `accesses` data accesses, or all it makes if
  these are fewer, and before it is completed: it is abandoned. -/
  | lowAfter (accesses : Nat)
  deriving DecidableEq, Repr

/-- What the environment presents to one step (spec/00_scope.md R8). -/
structure EnvTick where
  /-- The RES pin. -/
  res : ResPin
  /-- The requesting sources, by their position in `IRQ_SOURCES`, in the order in which the oracle would have them taken
  (spec/60_exceptions.md R308, R319). -/
  pending : List Nat
  deriving DecidableEq, Repr

/-- RES high and no request. -/
def EnvTick.idle : EnvTick where
  res := .high
  pending := []

/-- What the CPU tells the environment (spec/20_memory.md R62, spec/60_exceptions.md R308). -/
inductive EnvEvent where
  /-- A byte read at a peripheral address, with the answer the CPU took. -/
  | read (addr : Addr) (value : Byte)
  /-- A byte write at a peripheral address. -/
  | write (addr : Addr) (value : Byte)
  /-- An interrupt source was accepted. -/
  | accepted (source : Nat)
  deriving DecidableEq, Repr

/-- The environment as a script: what it will present and answer, and what it was told (notes/assumptions/5.md). -/
structure Env where
  /-- One entry per step, the next first; when none is left, each step sees `EnvTick.idle`. -/
  ticks : List EnvTick
  /-- The answers to the next peripheral reads, the next first; when none is left, each answer is a free value. -/
  periphIn : List Byte
  /-- What the environment was told, the latest first. -/
  seen : List EnvEvent
  deriving DecidableEq, Repr

/-- The bytes of memory as (address, byte) pairs. An address that is not listed reads as `Memory.unlisted`. -/
abbrev Memory := List Host.Cell

/-- What an unlisted byte reads as: H'00. The spec gives RAM no value (spec/10_state.md R49) and the ROM image is a parameter
(DESIGN CHOICE, notes/assumptions/2.md; unsafe: real RAM holds any value). -/
def Memory.unlisted : Byte := 0x00#8

/-- The machine (INVENTORY.md, State). -/
structure State where
  /-- R0 to R7 (spec/10_state.md R31); the 8-bit registers are their halves. -/
  regs : Vector Word 8
  /-- The program counter (R34): between steps, the address of the next instruction. -/
  pc : Addr
  /-- The condition code register, bits 7 to 0 = I, U6, H, U4, N, Z, V, C (R36). -/
  ccr : Byte
  /-- The 64-Kbyte memory (R44). -/
  mem : Memory
  /-- The interrupt-inhibit latch (R45). -/
  irqInhibit : Bool
  /-- The CPU operation state (R46). -/
  cpuState : CpuState
  /-- The environment's script: RES, pending requests (R47), peripheral answers, and what it was told. -/
  env : Env
  /-- How many free values have been drawn (the model's own field, notes/assumptions/7.md). -/
  draws : Nat
  /-- The chip's parameters (spec/00_scope.md R7). No step changes them. -/
  chip : Chip
  deriving DecidableEq, Repr

/-- Why a step stops although it concerns no instruction. The CPU has no synchronous exception (spec/60_exceptions.md R300), so no
instruction raises one of these. -/
inductive Fault where
  /-- `step` was asked to go on from the middle of the atomic exception-handling sequence. Raised by `phase` only, in the
  operation state `exceptionHandling`, which no step ends in (spec/10_state.md R46). Safe. -/
  | midException
  deriving DecidableEq, Repr

/-- `REFUSE(reason)` of spec/00_scope.md R13: the spec gives the situation no meaning, so the run has no continuation. All are
safe: the model goes on nowhere the spec does not. -/
inductive Refusal where
  /-- An instruction whose meaning is not modelled yet. Raised by no arm of `exec` as it stands. Safe. -/
  | notModelled (mnemonic : String)
  /-- The bytes at the PC are no instruction (spec/30_encoding.md R101, R102). Raised by the fetch. Safe. -/
  | undefinedEncoding
  /-- A word access or an instruction fetch at a `PeripheralModule` address (spec/20_memory.md R60). Raised by word reads, word
  writes and the fetch. Safe. -/
  | wordAccessInPeripheral
  /-- An access to an `Unmapped` address (R60). Raised by every memory access. Safe. -/
  | unmappedAddress
  /-- A write to on-chip memory that is not writable (R60). Raised by byte and word writes. Safe. -/
  | writeToRom
  /-- An instruction stored into the four bytes after itself (R70). Raised by the stores of instructions. Safe. -/
  | imminentStore
  deriving DecidableEq, Repr

/-- What a step or an instruction answers. -/
abbrev StepOutcome := Host.Outcome State Fault Refusal

/-- The machine right after reset (spec/10_state.md R49): I = 1, `irq_inhibit` = 1, `ProgramExecution`, and the PC loaded from
the reset vector word, which empty memory reads as H'0000 (`Sys2Proof.Machine.reset_pc_is_vector_word`). The general registers and
the other CCR bits are "not initialized": they are zero here by choice (DESIGN CHOICE, notes/assumptions/1.md; unsafe). -/
def State.reset : State where
  regs := Vector.replicate 8 0x0000#16
  pc := 0x0000#16
  ccr := 0x80#8
  mem := []
  irqInhibit := true
  cpuState := .programExecution
  env := { ticks := [], periphIn := [], seen := [] }
  draws := 0
  chip := Chip.flat

end Sys2Proof.Machine
end

