-- ==== Sys2Proof/Machine/Flags.lean ====
section
/-! DEFINITION. The CCR's bits (spec/10_state.md R36) and every flag computation of the spec: `add8`, `add16`, `sub8`, `sub16`,
`nz8`, `nz16` (spec/00_scope.md R15 to R18), the sixteen conditions (spec/44_branch.md R252), the flags of INC, DEC and SHAL, the
decimal-adjust tables (spec/41_arithmetic.md R168, R169). -/

namespace Sys2Proof.Machine

/-- The eight bits of the CCR (spec/10_state.md R36). -/
inductive Flag where
  | i | u6 | h | u4 | n | z | v | c
  deriving DecidableEq, Repr

/-- The position of a bit in the CCR (R36). -/
def Flag.index (f : Flag) : Nat :=
  match f with
  | .i => 7
  | .u6 => 6
  | .h => 5
  | .u4 => 4
  | .n => 3
  | .z => 2
  | .v => 1
  | .c => 0

/-- The value of one CCR bit. -/
def getFlag (ccr : Byte) (f : Flag) : Bool := ccr.getLsbD f.index

/-- The byte whose one set bit is bit `k`. -/
def bitMask (k : Nat) : Byte := 0x01#8 <<< k

/-- The byte `b` with bit `k` made `on`. -/
def putBit (b : Byte) (k : Nat) (on : Bool) : Byte := if on then b ||| bitMask k else b &&& ~~~(bitMask k)

/-- The CCR with one bit written. -/
def putFlag (ccr : Byte) (f : Flag) (on : Bool) : Byte := putBit ccr f.index on

/-- The CCR with each listed flag free: `unspecified(1)` for each (spec/00_scope.md R13, R14), from draw `d`. -/
def freeFlags (ccr : Byte) (fs : List Flag) (d : Nat) : Byte :=
  fs.foldl (fun c f => putFlag c f (getFlag (Config.freeCcr d) f)) ccr

/-- The result and the five flags of an addition or a subtraction (R16, R17). -/
structure AluResult (w : Nat) where
  r : BitVec w
  h : Bool
  n : Bool
  z : Bool
  v : Bool
  c : Bool
  deriving DecidableEq, Repr

/-- Addition at width `w` with carry in; the half carry is out of bit `half - 1` (R16). V is signed overflow (R15; DEDUCED by the
spec, notes/assumptions/19.md). -/
def addWith {w : Nat} (half : Nat) (a b : BitVec w) (cin : Bool) : AluResult w :=
  let s := a.toNat + b.toNat + cin.toNat
  let r := BitVec.ofNat w s
  { r := r
    h := decide (2 ^ half ≤ a.toNat % 2 ^ half + b.toNat % 2 ^ half + cin.toNat)
    n := r.msb
    z := r == 0#w
    v := a.msb == b.msb && r.msb != a.msb
    c := decide (2 ^ w ≤ s) }

/-- Subtraction `a - b - bin` at width `w`; the half borrow is from bit `half - 1` (R17). -/
def subWith {w : Nat} (half : Nat) (a b : BitVec w) (bin : Bool) : AluResult w :=
  let r := BitVec.ofInt w ((a.toNat : Int) - b.toNat - bin.toNat)
  { r := r
    h := decide (a.toNat % 2 ^ half < b.toNat % 2 ^ half + bin.toNat)
    n := r.msb
    z := r == 0#w
    v := a.msb != b.msb && r.msb != a.msb
    c := decide (a.toNat < b.toNat + bin.toNat) }

/-- `add8(a, b, cin)` (R16): half carry from bit 3, carry from bit 7. -/
def add8 (a b : Byte) (cin : Bool) : AluResult 8 := addWith 4 a b cin

/-- `add16(a, b)` (R16): half carry from bit 11, carry from bit 15. -/
def add16 (a b : Word) : AluResult 16 := addWith 12 a b false

/-- `sub8(a, b, bin)` (R17): half borrow from bit 3, borrow from bit 7. -/
def sub8 (a b : Byte) (bin : Bool) : AluResult 8 := subWith 4 a b bin

/-- `sub16(a, b)` (R17): half borrow from bit 11, borrow from bit 15. -/
def sub16 (a b : Word) : AluResult 16 := subWith 12 a b false

/-- H, N, Z, V, C written from a result (the row `- - ^ - ^ ^ ^ ^`, spec/30_encoding.md R108). -/
def putHNZVC {w : Nat} (ccr : Byte) (a : AluResult w) : Byte :=
  putFlag (putFlag (putFlag (putFlag (putFlag ccr .h a.h) .n a.n) .z a.z) .v a.v) .c a.c

/-- As `putHNZVC` but Z "Previous value remains unchanged when the result is zero; otherwise cleared to 0" (SUBX, and ADDX
when `ADDX_Z_STICKY`: spec/41_arithmetic.md R155, R164). -/
def putHNZVCStickyZ {w : Nat} (ccr : Byte) (a : AluResult w) : Byte :=
  putHNZVC ccr { a with z := a.z && getFlag ccr .z }

/-- N and Z from a value (`nz8`, `nz16`, R18). -/
def putNZ {w : Nat} (ccr : Byte) (v : BitVec w) : Byte := putFlag (putFlag ccr .n v.msb) .z (v == 0#w)

/-- N and Z from a value and V as given: INC, DEC, and with V = 0 every MOV and logic operation (spec/40_data_transfer.md R120,
spec/41_arithmetic.md R156, R157, spec/42_logic_shift.md R180). -/
def putNZV {w : Nat} (ccr : Byte) (r : BitVec w) (v : Bool) : Byte := putFlag (putNZ ccr r) .v v

/-- N and Z from a value, V and C as given: shifts and rotates (spec/42_logic_shift.md R180). -/
def putNZVC (ccr : Byte) (r : Byte) (v c : Bool) : Byte := putFlag (putNZV ccr r v) .c c

/-- The conditions of Bcc (spec/44_branch.md R252). -/
inductive Cond where
  | always | never | high | lowOrSame | carryClear | carrySet | notEqual | equal
  | overflowClear | overflowSet | plus | minus | greaterOrEqual | lessThan | greaterThan | lessOrEqual
  deriving DecidableEq, Repr

/-- `cond(cc)` on the CCR (R252). -/
def Cond.holds (k : Cond) (ccr : Byte) : Bool :=
  let n := getFlag ccr .n
  let z := getFlag ccr .z
  let v := getFlag ccr .v
  let c := getFlag ccr .c
  match k with
  | .always => true
  | .never => false
  | .high => !(c || z)
  | .lowOrSame => c || z
  | .carryClear => !c
  | .carrySet => c
  | .notEqual => !z
  | .equal => z
  | .overflowClear => !v
  | .overflowSet => v
  | .plus => !n
  | .minus => n
  | .greaterOrEqual => n == v
  | .lessThan => n != v
  | .greaterThan => !(z || n != v)
  | .lessOrEqual => z || n != v

/-- One row of a decimal-adjust table: the flags and nibble ranges it matches, what it adds, and C after (R168, R169). -/
structure AdjustRow where
  c : Bool
  hiFrom : Nat
  hiTo : Nat
  h : Bool
  loFrom : Nat
  loTo : Nat
  add : Byte
  cAfter : Bool
  deriving DecidableEq, Repr

/-- The nine rows of DAA (spec/41_arithmetic.md R168). -/
def daaTable : List AdjustRow := [
  ⟨false, 0x0, 0x9, false, 0x0, 0x9, 0x00#8, false⟩,
  ⟨false, 0x0, 0x8, false, 0xA, 0xF, 0x06#8, false⟩,
  ⟨false, 0x0, 0x9, true,  0x0, 0x3, 0x06#8, false⟩,
  ⟨false, 0xA, 0xF, false, 0x0, 0x9, 0x60#8, true⟩,
  ⟨false, 0x9, 0xF, false, 0xA, 0xF, 0x66#8, true⟩,
  ⟨false, 0xA, 0xF, true,  0x0, 0x3, 0x66#8, true⟩,
  ⟨true,  0x0, 0x2, false, 0x0, 0x9, 0x60#8, true⟩,
  ⟨true,  0x0, 0x2, false, 0xA, 0xF, 0x66#8, true⟩,
  ⟨true,  0x0, 0x3, true,  0x0, 0x3, 0x66#8, true⟩]

/-- The four rows of DAS (R169). -/
def dasTable : List AdjustRow := [
  ⟨false, 0x0, 0x9, false, 0x0, 0x9, 0x00#8, false⟩,
  ⟨false, 0x0, 0x8, true,  0x6, 0xF, 0xFA#8, false⟩,
  ⟨true,  0x7, 0xF, false, 0x0, 0x9, 0xA0#8, true⟩,
  ⟨true,  0x6, 0xF, true,  0x6, 0xF, 0x9A#8, true⟩]

/-- Whether a row matches the C and H of a CCR and the nibbles of a byte. -/
def AdjustRow.fits (row : AdjustRow) (ccr a : Byte) : Bool :=
  row.c == getFlag ccr .c && row.h == getFlag ccr .h &&
    decide (row.hiFrom ≤ (hiNibble a).toNat) && decide ((hiNibble a).toNat ≤ row.hiTo) &&
    decide (row.loFrom ≤ (loNibble a).toNat) && decide ((loNibble a).toNat ≤ row.loTo)

/-- The row that matches, if any; the rows of each table do not overlap. -/
def adjustRow (table : List AdjustRow) (ccr a : Byte) : Option AdjustRow := table.find? (·.fits ccr a)

end Sys2Proof.Machine
end

