-- ==== Sys2Proof/Machine/Ops.lean ====
section
/-! DEFINITION. The named operations every meaning is written over: registers, memory by region, the environment, the stack, the
PC, the interrupt entry and the return from it, reset. -/

namespace Sys2Proof.Machine

/-! ### Results -/

/-- A value, or the refusal that ends the step. -/
abbrev Res (α : Type) := Except Refusal α

/-- What a step answers from the result of its operations. -/
def finish (r : Res State) : StepOutcome :=
  match r with
  | .ok s => .next s
  | .error e => .refused e

/-! ### Registers (spec/00_scope.md R11, spec/10_state.md R31, R32) -/

/-- `x16[n]`. -/
def State.r16 (s : State) (n : Reg16) : Word := s.regs[n.toNat]'n.isLt

/-- `x16[n] <- v`. -/
def State.setR16 (s : State) (n : Reg16) (v : Word) : State := { s with regs := s.regs.set n.toNat v n.isLt }

/-- The 16-bit register an 8-bit register is a half of: `c[2:0]`. -/
def regOf (c : Reg8) : Reg16 := low3 c

/-- `c[3]`: the register is the lower byte. -/
def isLowHalf (c : Reg8) : Bool := topBit c

/-- `x8[c]`. -/
def State.r8 (s : State) (c : Reg8) : Byte :=
  if isLowHalf c then loByte (s.r16 (regOf c)) else hiByte (s.r16 (regOf c))

/-- `x8[c] <- v`; the other half keeps its value. -/
def State.setR8 (s : State) (c : Reg8) (v : Byte) : State :=
  let w := s.r16 (regOf c)
  s.setR16 (regOf c) (if isLowHalf c then joinBytes (hiByte w) v else joinBytes v (loByte w))

/-- SP, R7 (spec/10_state.md R33). -/
def State.sp (s : State) : Word := s.r16 7#3

/-- `SP <- v`. -/
def State.setSp (s : State) (v : Word) : State := s.setR16 7#3 v

/-- One bit of the CCR. -/
def State.flag (s : State) (f : Flag) : Bool := getFlag s.ccr f

/-- `CCR <- v`. -/
def State.setCcr (s : State) (v : Byte) : State := { s with ccr := v }

/-! ### The program counter (spec/10_state.md R34, R35) -/

/-- `npc`: the address of the instruction after one of `len` bytes (spec/00_scope.md R11). -/
def State.npc (s : State) (len : Addr) : Addr := s.pc + len

/-- The end of an instruction that does not assign the PC: `pc <- npc`, and `irq_inhibit` cleared (R45). -/
def State.advance (s : State) (len : Addr) : State := { s with pc := s.npc len, irqInhibit := false }

/-- The end of LDC, ANDC, ORC, XORC: `pc <- npc`, and `irq_inhibit` set (R45). -/
def State.advanceInhibit (s : State) (len : Addr) : State := { s with pc := s.npc len, irqInhibit := true }

/-- The end of a control transfer: `pc <- target & H'FFFE` (R35), and `irq_inhibit` cleared. -/
def State.jump (s : State) (target : Addr) : State := { s with pc := evenAddr target, irqInhibit := false }

/-! ### Free values (spec/00_scope.md R13) -/

/-- One free value has been drawn. -/
def State.drawn (s : State) : State := { s with draws := s.draws + 1 }

/-! ### Memory as data (spec/20_memory.md R50) -/

/-- The byte at an address. -/
def Memory.read (m : Memory) (a : Nat) : Byte :=
  match m with
  | [] => Memory.unlisted
  | (k, v) :: rest => if k = a then v else Memory.read rest a

/-- The memory with `(a, v)` put before the first greater address. -/
def Memory.insert (m : Memory) (a : Nat) (v : Byte) : Memory :=
  match m with
  | [] => [(a, v)]
  | (k, w) :: rest => if a < k then (a, v) :: (k, w) :: rest else (k, w) :: Memory.insert rest a v

/-- The memory with one byte written: every entry of the address goes, and the new one comes unless it is what an unlisted address
reads as. -/
def Memory.write (m : Memory) (a : Nat) (v : Byte) : Memory :=
  let rest : Memory := m.filter (fun cell => cell.1 != a)
  if v = Memory.unlisted then rest else Memory.insert rest a v

/-- The canonical form: addresses strictly rising, below 65 536, and no entry equal to what an unlisted address reads as. -/
def Memory.wf (m : Memory) : Bool :=
  match m with
  | [] => true
  | [(k, v)] => decide (k < 65536) && v != Memory.unlisted
  | (k, v) :: (l, w) :: rest => decide (k < l) && v != Memory.unlisted && Memory.wf ((l, w) :: rest)

/-! ### Regions (spec/20_memory.md R60) -/

/-- The kind of region an address lies in: that of the first region of the map that holds it. -/
def Chip.kindAt (c : Chip) (a : Addr) : RegionKind :=
  match c.map.find? (fun r => decide (r.base ≤ a) && decide (a ≤ r.last)) with
  | some r => r.kind
  | none => .unmapped

end Sys2Proof.Machine

namespace Sys2Proof

/-- On-chip memory, writable or not. -/
def RegionKind.isOnChip (k : RegionKind) : Bool :=
  match k with
  | .onChipMemory _ => true
  | .peripheralModule _ => false
  | .unmapped => false

/-- A peripheral module. -/
def RegionKind.isPeripheral (k : RegionKind) : Bool :=
  match k with
  | .onChipMemory _ => false
  | .peripheralModule _ => true
  | .unmapped => false

/-- On-chip memory that can be written. -/
def RegionKind.isRam (k : RegionKind) : Bool :=
  match k with
  | .onChipMemory w => w
  | .peripheralModule _ => false
  | .unmapped => false

/-- A byte may be read: on-chip memory or a peripheral module. -/
def RegionKind.byteReadable (k : RegionKind) : Bool := k.isOnChip || k.isPeripheral

/-- A byte may be written: writable on-chip memory or a peripheral module. -/
def RegionKind.byteWritable (k : RegionKind) : Bool := k.isRam || k.isPeripheral

/-- Why a byte write is refused. -/
def RegionKind.writeRefusal (k : RegionKind) : Machine.Refusal := if k.isOnChip then .writeToRom else .unmappedAddress

end Sys2Proof

namespace Sys2Proof.Machine

/-- The kind of region a byte of the state's address space lies in. -/
def State.kindAt (s : State) (a : Addr) : RegionKind := Chip.kindAt s.chip a

/-- A byte read at `a` is admitted. -/
def State.canReadByte (s : State) (a : Addr) : Bool := (s.kindAt a).byteReadable

/-- A byte write at `a` is admitted. -/
def State.canWriteByte (s : State) (a : Addr) : Bool := (s.kindAt a).byteWritable

/-- A word read at `a` is admitted: both its bytes lie in on-chip memory. -/
def State.canReadWord (s : State) (a : Addr) : Bool :=
  (s.kindAt (evenAddr a)).isOnChip && (s.kindAt (evenAddr a + 1#16)).isOnChip

/-- A word write at `a` is admitted: both its bytes lie in writable on-chip memory. -/
def State.canWriteWord (s : State) (a : Addr) : Bool :=
  (s.kindAt (evenAddr a)).isRam && (s.kindAt (evenAddr a + 1#16)).isRam

/-- Why a word access at `a` is refused: a peripheral byte, else an unmapped byte, else memory that is not writable. -/
def State.wordRefusal (s : State) (a : Addr) : Refusal :=
  if (s.kindAt (evenAddr a)).isPeripheral || (s.kindAt (evenAddr a + 1#16)).isPeripheral then .wordAccessInPeripheral
  else if (s.kindAt (evenAddr a)).isOnChip && (s.kindAt (evenAddr a + 1#16)).isOnChip then .writeToRom
  else .unmappedAddress

/-! ### Byte and word access (spec/00_scope.md R12) -/

/-- What a peripheral module answers next: the script's next byte, or a free value when the script has none (R62). -/
def State.peripheralAnswer (s : State) : Byte :=
  match s.env.periphIn with
  | b :: _ => b
  | [] => Config.freePeripheral s.draws

/-- The state after a peripheral read at `a`: the answer used up and the read reported. -/
def State.peripheralReadDone (s : State) (a : Addr) : State :=
  { s with
    env := { s.env with
      periphIn := s.env.periphIn.tail
      seen := .read a s.peripheralAnswer :: s.env.seen }
    draws := if s.env.periphIn.isEmpty then s.draws + 1 else s.draws }

/-- The byte a read at `a` returns: memory's in on-chip memory, the environment's at a peripheral address. -/
def State.byteAt (s : State) (a : Addr) : Byte :=
  if (s.kindAt a).isPeripheral then s.peripheralAnswer else Memory.read s.mem a.toNat

/-- The state after a byte read at `a`: reads of on-chip memory change nothing (R61). -/
def State.afterRead (s : State) (a : Addr) : State :=
  if (s.kindAt a).isPeripheral then s.peripheralReadDone a else s

/-- `MemRead(a, 1)`. -/
def State.readByte (s : State) (a : Addr) : Res (Byte × State) :=
  if s.canReadByte a then .ok (s.byteAt a, s.afterRead a) else .error .unmappedAddress

/-- The state after a byte write at `a`: memory changed, or the write reported to the environment (R62). -/
def State.afterWrite (s : State) (a : Addr) (v : Byte) : State :=
  if (s.kindAt a).isPeripheral then { s with env := { s.env with seen := .write a v :: s.env.seen } }
  else { s with mem := Memory.write s.mem a.toNat v }

/-- `MemWrite(a, 1, v)`. -/
def State.writeByte (s : State) (a : Addr) (v : Byte) : Res State :=
  if s.canWriteByte a then .ok (s.afterWrite a v) else .error (s.kindAt a).writeRefusal

/-- The word at `a & H'FFFE`, most significant byte first (R53, R55). -/
def State.wordAt (s : State) (a : Addr) : Word :=
  joinBytes (Memory.read s.mem (evenAddr a).toNat) (Memory.read s.mem (evenAddr a + 1#16).toNat)

/-- `MemRead(a, 2)`. -/
def State.readWord (s : State) (a : Addr) : Res Word :=
  if s.canReadWord a then .ok (s.wordAt a) else .error (s.wordRefusal a)

/-- The state with the word at `a & H'FFFE` written, most significant byte first. -/
def State.putWord (s : State) (a : Addr) (v : Word) : State :=
  { s with mem := Memory.write (Memory.write s.mem (evenAddr a).toNat (hiByte v)) (evenAddr a + 1#16).toNat (loByte v) }

/-- `MemWrite(a, 2, v)`. -/
def State.writeWord (s : State) (a : Addr) (v : Word) : Res State :=
  if s.canWriteWord a then .ok (s.putWord a v) else .error (s.wordRefusal a)

/-! ### Stores of instructions, which may not reach the instructions about to be executed (spec/20_memory.md R70) -/

/-- The byte at `a` is one of the four that follow an instruction: `a` in `[npc, npc + 3]`, modulo 2^16. -/
def imminent (npc a : Addr) : Bool := decide ((a - npc).toNat < 4)

/-- A word store at `a` writes one of the four bytes at `npc`. -/
def imminentWord (npc a : Addr) : Bool := imminent npc (evenAddr a) || imminent npc (evenAddr a + 1#16)

/-- The byte store of an instruction that ends before `npc`. -/
def State.storeByte (s : State) (npc a : Addr) (v : Byte) : Res State :=
  if imminent npc a then .error .imminentStore else s.writeByte a v

/-- The word store of an instruction that ends before `npc`. -/
def State.storeWord (s : State) (npc a : Addr) (v : Word) : Res State :=
  if imminentWord npc a then .error .imminentStore else s.writeWord a v

/-! ### The stack (spec/20_memory.md R73) -/

/-- An instruction's push: `SP <- SP - 2`, then the word written at SP. -/
def State.pushWord (s : State) (npc : Addr) (v : Word) : Res State :=
  (s.setSp (s.sp - 2#16)).storeWord npc (s.sp - 2#16) v

/-- A pop: the word read at SP, then `SP <- SP + 2`. -/
def State.popWord (s : State) : Res (Word × State) := do
  let v ← s.readWord s.sp
  .ok (v, s.setSp (s.sp + 2#16))

/-! ### Interrupts (spec/60_exceptions.md) -/

/-- Source `id` of `IRQ_SOURCES`, if it is admissible: nonmaskable, or I = 0 (R309). -/
def State.admissible (s : State) (id : Nat) : Option IrqSource :=
  match s.chip.irqSources[id]? with
  | some src => if src.isNmi || !s.flag .i then some src else none
  | none => none

/-- `choose(A)` of R310: the first admissible source in the order the oracle presents them (R319), with its number. -/
def State.choose (s : State) (pending : List Nat) : Option (Nat × IrqSource) :=
  pending.findSome? (fun id => (s.admissible id).map (fun src => (id, src)))

/-- The one exception entry the CPU has after reset: `raise Interrupt(s)` (R312). The PC word is pushed, then the word CCR : CCR; I
is set; the PC is loaded from the source's vector word; `irq_inhibit` is cleared. -/
def State.takeInterrupt (s : State) (src : IrqSource) : Res State := do
  let s1 ← (s.setSp (s.sp - 2#16)).writeWord (s.sp - 2#16) s.pc
  let s2 ← (s1.setSp (s1.sp - 2#16)).writeWord (s1.sp - 2#16) (joinBytes s.ccr s.ccr)
  let target ← s2.readWord src.vectorAddr
  .ok { s2 with
    ccr := putFlag s.ccr .i true
    pc := evenAddr target
    irqInhibit := false
    cpuState := .programExecution }

/-- The environment told which source was accepted (R308). -/
def State.accepted (s : State) (id : Nat) : State := { s with env := { s.env with seen := .accepted id :: s.env.seen } }

/-- The acceptance of source `id`: the environment is told, and the interrupt is taken. -/
def State.acceptInterrupt (s : State) (id : Nat) (src : IrqSource) : Res State := (s.accepted id).takeInterrupt src

/-- The return from an exception: the CCR word popped (its lower byte ignored), then the PC (spec/45_system_control.md R271). -/
def State.returnFromException (s : State) : Res State := do
  let (w, s1) ← s.popWord
  let (t, s2) ← s1.popWord
  .ok ((s2.setCcr (hiByte w)).jump t)

/-! ### Reset (spec/60_exceptions.md R303, R305) -/

/-- RES goes low: all processing stops and I is set (R303). -/
def State.enterReset (s : State) : State := { s with ccr := putFlag s.ccr .i true, cpuState := .reset }

/-- Memory with every byte that `isRam` names free, from draw `d` (spec/10_state.md R49, spec/92_eei_decisions.md D10). -/
def Memory.scrambled (m : Memory) (isRam : Nat → Bool) (d : Nat) : Memory :=
  (List.range 65536).foldl (fun m a => if isRam a then Memory.write m a (Config.freeRam d a) else m) m

/-- The general registers, the CCR and (unless the chip keeps it) RAM made free: "not initialized" (R49, U19). -/
def State.uninitialised (s : State) : State :=
  { s with
    regs := Vector.ofFn (fun k => Config.freeRegister s.draws k.val)
    ccr := Config.freeCcr s.draws
    mem := if s.chip.ramKept then s.mem
      else Memory.scrambled s.mem (fun a => (Chip.kindAt s.chip (BitVec.ofNat 16 a)).isRam) s.draws
    draws := s.draws + 1 }

/-- `raise Reset` (R305), once RES is high again: the PC from the reset vector word, I set, `irq_inhibit` set. Nothing is
pushed. -/
def State.resetSequence (s : State) : Res State := do
  let target ← s.readWord s.chip.resetVectorAddr
  let s1 := s.uninitialised
  .ok { s1 with
    ccr := putFlag s1.ccr .i true
    pc := evenAddr target
    irqInhibit := true
    cpuState := .programExecution }

end Sys2Proof.Machine
end

