-- ==== Sys2Proof/Machine/Operands.lean ====
section
/-! DEFINITION. The operand forms of spec/30_encoding.md R86 to R96: effective addresses, branch targets and bit numbers. -/

namespace Sys2Proof.Machine

/-- `@Rn`: the address in the register (R88). -/
def eaInd (s : State) (rn : Reg16) : Addr := s.r16 rn

/-- `@(d:16, Rn)`: register plus displacement, modulo 2^16 (R89, spec/20_memory.md R65). -/
def eaDisp (s : State) (disp : Word) (rn : Reg16) : Addr := s.r16 rn + disp

/-- `@aa:8`: H'FF00 to H'FFFF (R92). -/
def eaAbs8 (abs : Byte) : Addr := joinBytes 0xFF#8 abs

/-- `@@aa:8`: the address H'0000 to H'00FF of the word that holds the target (R95). -/
def eaMemInd (abs : Byte) : Addr := joinBytes 0x00#8 abs

/-- `@(d:8, PC)`: the displacement, sign extended, added to the address of the next instruction (R94). -/
def branchTarget (npc : Addr) (disp : Byte) : Addr := npc + signExtend16 disp

/-- A register used as bit number: its lower three bits (R96). -/
def bitNumber (s : State) (rn : Reg8) : Imm3 := (s.r8 rn).extractLsb' 0 3

end Sys2Proof.Machine
end

