-- ==== Sys2Proof/Machine/BitManipulation.lean ====
section
/-! DEFINITION. The fourteen bit manipulation instructions in all their forms (spec/43_bit_manipulation.md R200 to R215). -/

namespace Sys2Proof.Machine

/-! ### The operations on a byte and on the CCR -/

/-- `B[b]`. -/
def bitAt (b : Byte) (n : Imm3) : Bool := b.getLsbD n.toNat

/-- BSET (R201). -/
def bitSet (n : Imm3) (b : Byte) : Byte := b ||| bitMask n.toNat

/-- BCLR (R202). -/
def bitClear (n : Imm3) (b : Byte) : Byte := b &&& ~~~(bitMask n.toNat)

/-- BNOT (R203). -/
def bitInvert (n : Imm3) (b : Byte) : Byte := b ^^^ bitMask n.toNat

/-- BST and BIST (R213, R214): the bit becomes `c`. -/
def bitStore (c : Bool) (n : Imm3) (b : Byte) : Byte := putBit b n.toNat c

/-- The CCR after an instruction of the read-only class, from the bit it read (R204 to R212). -/
inductive BitTest where
  | btst | band | biand | bor | bior | bxor | bixor | bld | bild
  deriving DecidableEq, Repr

/-- BTST writes Z with the inverse of the bit; the others write C (R204 to R212). -/
def BitTest.ccrAfter (op : BitTest) (ccr : Byte) (bit : Bool) : Byte :=
  let c := getFlag ccr .c
  match op with
  | .btst => putFlag ccr .z (!bit)
  | .band => putFlag ccr .c (c && bit)
  | .biand => putFlag ccr .c (c && !bit)
  | .bor => putFlag ccr .c (c || bit)
  | .bior => putFlag ccr .c (c || !bit)
  | .bxor => putFlag ccr .c (c != bit)
  | .bixor => putFlag ccr .c (c != !bit)
  | .bld => putFlag ccr .c bit
  | .bild => putFlag ccr .c (!bit)

/-! ### Register direct, and the byte in memory (R200) -/

/-- Read-only class on a register. -/
def testReg (s : State) (op : BitTest) (rd : Reg8) (n : Imm3) : StepOutcome :=
  .next ((s.setCcr (op.ccrAfter s.ccr (bitAt (s.r8 rd) n))).advance 2#16)

/-- Read-only class on memory: one byte read. -/
def testMem (s : State) (op : BitTest) (ea : Addr) (n : Imm3) : StepOutcome := finish do
  let (b, s1) ← s.readByte ea
  .ok ((s1.setCcr (op.ccrAfter s1.ccr (bitAt b n))).advance 4#16)

/-- Read-modify-write class on a register. -/
def modifyReg (s : State) (rd : Reg8) (f : Byte → Byte) : StepOutcome := .next ((s.setR8 rd (f (s.r8 rd))).advance 2#16)

/-- Read-modify-write class on memory: one byte read, then the whole byte written back, changed or not (R200, R215). -/
def modifyMem (s : State) (ea : Addr) (f : Byte → Byte) : StepOutcome := finish do
  let (b, s1) ← s.readByte ea
  let s2 ← s1.storeByte (s1.npc 4#16) ea (f b)
  .ok (s2.advance 4#16)

/-! ### BSET -/

/-- `BSET Rn, Rd` (R201). -/
def execBsetRegReg (rn : Reg8) (rd : Reg8) (s : State) : StepOutcome := modifyReg s rd (bitSet (bitNumber s rn))

/-- `BSET #xx:3, Rd` (R201). -/
def execBsetImmReg (imm : Imm3) (rd : Reg8) (s : State) : StepOutcome := modifyReg s rd (bitSet imm)

/-- `BSET #xx:3, @Rd` (R201). -/
def execBsetImmInd (imm : Imm3) (rd : Reg16) (s : State) : StepOutcome := modifyMem s (eaInd s rd) (bitSet imm)

/-- `BSET #xx:3, @aa:8` (R201). -/
def execBsetImmAbs (imm : Imm3) (abs : Byte) (s : State) : StepOutcome := modifyMem s (eaAbs8 abs) (bitSet imm)

/-- `BSET Rn, @Rd` (R201). -/
def execBsetRegInd (rn : Reg8) (rd : Reg16) (s : State) : StepOutcome := modifyMem s (eaInd s rd) (bitSet (bitNumber s rn))

/-- `BSET Rn, @aa:8` (R201). -/
def execBsetRegAbs (rn : Reg8) (abs : Byte) (s : State) : StepOutcome := modifyMem s (eaAbs8 abs) (bitSet (bitNumber s rn))

/-! ### BCLR -/

/-- `BCLR Rn, Rd` (R202). -/
def execBclrRegReg (rn : Reg8) (rd : Reg8) (s : State) : StepOutcome := modifyReg s rd (bitClear (bitNumber s rn))

/-- `BCLR #xx:3, Rd` (R202). -/
def execBclrImmReg (imm : Imm3) (rd : Reg8) (s : State) : StepOutcome := modifyReg s rd (bitClear imm)

/-- `BCLR #xx:3, @Rd` (R202). -/
def execBclrImmInd (imm : Imm3) (rd : Reg16) (s : State) : StepOutcome := modifyMem s (eaInd s rd) (bitClear imm)

/-- `BCLR #xx:3, @aa:8` (R202). -/
def execBclrImmAbs (imm : Imm3) (abs : Byte) (s : State) : StepOutcome := modifyMem s (eaAbs8 abs) (bitClear imm)

/-- `BCLR Rn, @Rd` (R202). -/
def execBclrRegInd (rn : Reg8) (rd : Reg16) (s : State) : StepOutcome := modifyMem s (eaInd s rd) (bitClear (bitNumber s rn))

/-- `BCLR Rn, @aa:8` (R202). -/
def execBclrRegAbs (rn : Reg8) (abs : Byte) (s : State) : StepOutcome := modifyMem s (eaAbs8 abs) (bitClear (bitNumber s rn))

/-! ### BNOT -/

/-- `BNOT Rn, Rd` (R203). -/
def execBnotRegReg (rn : Reg8) (rd : Reg8) (s : State) : StepOutcome := modifyReg s rd (bitInvert (bitNumber s rn))

/-- `BNOT #xx:3, Rd` (R203). -/
def execBnotImmReg (imm : Imm3) (rd : Reg8) (s : State) : StepOutcome := modifyReg s rd (bitInvert imm)

/-- `BNOT #xx:3, @Rd` (R203). -/
def execBnotImmInd (imm : Imm3) (rd : Reg16) (s : State) : StepOutcome := modifyMem s (eaInd s rd) (bitInvert imm)

/-- `BNOT #xx:3, @aa:8` (R203). -/
def execBnotImmAbs (imm : Imm3) (abs : Byte) (s : State) : StepOutcome := modifyMem s (eaAbs8 abs) (bitInvert imm)

/-- `BNOT Rn, @Rd` (R203). -/
def execBnotRegInd (rn : Reg8) (rd : Reg16) (s : State) : StepOutcome := modifyMem s (eaInd s rd) (bitInvert (bitNumber s rn))

/-- `BNOT Rn, @aa:8` (R203). -/
def execBnotRegAbs (rn : Reg8) (abs : Byte) (s : State) : StepOutcome := modifyMem s (eaAbs8 abs) (bitInvert (bitNumber s rn))

/-! ### BST -/

/-- `BST #xx:3, Rd` (R213). -/
def execBstImmReg (imm : Imm3) (rd : Reg8) (s : State) : StepOutcome := modifyReg s rd (bitStore (s.flag .c) imm)

/-- `BST #xx:3, @Rd` (R213). -/
def execBstImmInd (imm : Imm3) (rd : Reg16) (s : State) : StepOutcome := modifyMem s (eaInd s rd) (bitStore (s.flag .c) imm)

/-- `BST #xx:3, @aa:8` (R213). -/
def execBstImmAbs (imm : Imm3) (abs : Byte) (s : State) : StepOutcome := modifyMem s (eaAbs8 abs) (bitStore (s.flag .c) imm)

/-! ### BIST -/

/-- `BIST #xx:3, Rd` (R214). -/
def execBistImmReg (imm : Imm3) (rd : Reg8) (s : State) : StepOutcome := modifyReg s rd (bitStore (!s.flag .c) imm)

/-- `BIST #xx:3, @Rd` (R214). -/
def execBistImmInd (imm : Imm3) (rd : Reg16) (s : State) : StepOutcome := modifyMem s (eaInd s rd) (bitStore (!s.flag .c) imm)

/-- `BIST #xx:3, @aa:8` (R214). -/
def execBistImmAbs (imm : Imm3) (abs : Byte) (s : State) : StepOutcome := modifyMem s (eaAbs8 abs) (bitStore (!s.flag .c) imm)

/-! ### BTST -/

/-- `BTST Rn, Rd` (R204). -/
def execBtstRegReg (rn : Reg8) (rd : Reg8) (s : State) : StepOutcome := testReg s .btst rd (bitNumber s rn)

/-- `BTST #xx:3, Rd` (R204). -/
def execBtstImmReg (imm : Imm3) (rd : Reg8) (s : State) : StepOutcome := testReg s .btst rd imm

/-- `BTST #xx:3, @Rd` (R204). -/
def execBtstImmInd (imm : Imm3) (rd : Reg16) (s : State) : StepOutcome := testMem s .btst (eaInd s rd) imm

/-- `BTST #xx:3, @aa:8` (R204). -/
def execBtstImmAbs (imm : Imm3) (abs : Byte) (s : State) : StepOutcome := testMem s .btst (eaAbs8 abs) imm

/-- `BTST Rn, @Rd` (R204). -/
def execBtstRegInd (rn : Reg8) (rd : Reg16) (s : State) : StepOutcome := testMem s .btst (eaInd s rd) (bitNumber s rn)

/-- `BTST Rn, @aa:8` (R204). -/
def execBtstRegAbs (rn : Reg8) (abs : Byte) (s : State) : StepOutcome := testMem s .btst (eaAbs8 abs) (bitNumber s rn)

/-! ### BAND -/

/-- `BAND #xx:3, Rd` (R205). -/
def execBandImmReg (imm : Imm3) (rd : Reg8) (s : State) : StepOutcome := testReg s .band rd imm

/-- `BAND #xx:3, @Rd` (R205). -/
def execBandImmInd (imm : Imm3) (rd : Reg16) (s : State) : StepOutcome := testMem s .band (eaInd s rd) imm

/-- `BAND #xx:3, @aa:8` (R205). -/
def execBandImmAbs (imm : Imm3) (abs : Byte) (s : State) : StepOutcome := testMem s .band (eaAbs8 abs) imm

/-! ### BIAND -/

/-- `BIAND #xx:3, Rd` (R206). -/
def execBiandImmReg (imm : Imm3) (rd : Reg8) (s : State) : StepOutcome := testReg s .biand rd imm

/-- `BIAND #xx:3, @Rd` (R206). -/
def execBiandImmInd (imm : Imm3) (rd : Reg16) (s : State) : StepOutcome := testMem s .biand (eaInd s rd) imm

/-- `BIAND #xx:3, @aa:8` (R206). -/
def execBiandImmAbs (imm : Imm3) (abs : Byte) (s : State) : StepOutcome := testMem s .biand (eaAbs8 abs) imm

/-! ### BOR -/

/-- `BOR #xx:3, Rd` (R207). -/
def execBorImmReg (imm : Imm3) (rd : Reg8) (s : State) : StepOutcome := testReg s .bor rd imm

/-- `BOR #xx:3, @Rd` (R207). -/
def execBorImmInd (imm : Imm3) (rd : Reg16) (s : State) : StepOutcome := testMem s .bor (eaInd s rd) imm

/-- `BOR #xx:3, @aa:8` (R207). -/
def execBorImmAbs (imm : Imm3) (abs : Byte) (s : State) : StepOutcome := testMem s .bor (eaAbs8 abs) imm

/-! ### BIOR -/

/-- `BIOR #xx:3, Rd` (R208). -/
def execBiorImmReg (imm : Imm3) (rd : Reg8) (s : State) : StepOutcome := testReg s .bior rd imm

/-- `BIOR #xx:3, @Rd` (R208). -/
def execBiorImmInd (imm : Imm3) (rd : Reg16) (s : State) : StepOutcome := testMem s .bior (eaInd s rd) imm

/-- `BIOR #xx:3, @aa:8` (R208). -/
def execBiorImmAbs (imm : Imm3) (abs : Byte) (s : State) : StepOutcome := testMem s .bior (eaAbs8 abs) imm

/-! ### BXOR -/

/-- `BXOR #xx:3, Rd` (R209). -/
def execBxorImmReg (imm : Imm3) (rd : Reg8) (s : State) : StepOutcome := testReg s .bxor rd imm

/-- `BXOR #xx:3, @Rd` (R209). -/
def execBxorImmInd (imm : Imm3) (rd : Reg16) (s : State) : StepOutcome := testMem s .bxor (eaInd s rd) imm

/-- `BXOR #xx:3, @aa:8` (R209). -/
def execBxorImmAbs (imm : Imm3) (abs : Byte) (s : State) : StepOutcome := testMem s .bxor (eaAbs8 abs) imm

/-! ### BIXOR -/

/-- `BIXOR #xx:3, Rd` (R210). -/
def execBixorImmReg (imm : Imm3) (rd : Reg8) (s : State) : StepOutcome := testReg s .bixor rd imm

/-- `BIXOR #xx:3, @Rd` (R210). -/
def execBixorImmInd (imm : Imm3) (rd : Reg16) (s : State) : StepOutcome := testMem s .bixor (eaInd s rd) imm

/-- `BIXOR #xx:3, @aa:8` (R210). -/
def execBixorImmAbs (imm : Imm3) (abs : Byte) (s : State) : StepOutcome := testMem s .bixor (eaAbs8 abs) imm

/-! ### BLD -/

/-- `BLD #xx:3, Rd` (R211). -/
def execBldImmReg (imm : Imm3) (rd : Reg8) (s : State) : StepOutcome := testReg s .bld rd imm

/-- `BLD #xx:3, @Rd` (R211). -/
def execBldImmInd (imm : Imm3) (rd : Reg16) (s : State) : StepOutcome := testMem s .bld (eaInd s rd) imm

/-- `BLD #xx:3, @aa:8` (R211). -/
def execBldImmAbs (imm : Imm3) (abs : Byte) (s : State) : StepOutcome := testMem s .bld (eaAbs8 abs) imm

/-! ### BILD -/

/-- `BILD #xx:3, Rd` (R212). -/
def execBildImmReg (imm : Imm3) (rd : Reg8) (s : State) : StepOutcome := testReg s .bild rd imm

/-- `BILD #xx:3, @Rd` (R212). -/
def execBildImmInd (imm : Imm3) (rd : Reg16) (s : State) : StepOutcome := testMem s .bild (eaInd s rd) imm

/-- `BILD #xx:3, @aa:8` (R212). -/
def execBildImmAbs (imm : Imm3) (abs : Byte) (s : State) : StepOutcome := testMem s .bild (eaAbs8 abs) imm

end Sys2Proof.Machine
end

