-- ==== Sys2Proof/Machine/Bus.lean ====
section
/-! DEFINITION. The data accesses each instruction and each exception entry makes on the bus, in the order of its rule
(spec/20_memory.md R58, R59, R66, R72), so that a reset can cut it short between two of them (spec/60_exceptions.md R303, R304).
Fetches are left out: they change nothing. -/

namespace Sys2Proof.Machine

/-- A sequence of data accesses. What follows a byte read may depend on the byte; nothing accessed depends on a word read. -/
inductive BusPlan where
  | done
  /-- A byte read. -/
  | readByte (a : Addr) (rest : Byte → BusPlan)
  /-- A word read. -/
  | readWord (a : Addr) (rest : BusPlan)
  /-- A byte store of an instruction that ends before `npc`. -/
  | storeByte (npc a : Addr) (v : Byte) (rest : BusPlan)
  /-- A word store of an instruction that ends before `npc`. -/
  | storeWord (npc a : Addr) (v : Word) (rest : BusPlan)
  /-- A push of interrupt entry. -/
  | writeWord (a : Addr) (v : Word) (rest : BusPlan)

/-- The first `k` accesses performed, or all if there are fewer. -/
def BusPlan.run (p : BusPlan) (k : Nat) (s : State) : Res State :=
  match p, k with
  | .done, _ => .ok s
  | _, 0 => .ok s
  | .readByte a rest, m + 1 => do
    let (b, s1) ← s.readByte a
    (rest b).run m s1
  | .readWord a rest, m + 1 => do
    let _ ← s.readWord a
    rest.run m s
  | .storeByte npc a v rest, m + 1 => do
    let s1 ← s.storeByte npc a v
    rest.run m s1
  | .storeWord npc a v rest, m + 1 => do
    let s1 ← s.storeWord npc a v
    rest.run m s1
  | .writeWord a v rest, m + 1 => do
    let s1 ← s.writeWord a v
    rest.run m s1

/-! ### Shapes -/

/-- One byte read at `a`. -/
def accessLoadByte (a : Addr) : BusPlan := .readByte a fun _ => .done

/-- One word read at `a`. -/
def accessLoadWord (a : Addr) : BusPlan := .readWord a .done

/-- One byte stored at `a`. -/
def accessStoreByte (npc a : Addr) (v : Byte) : BusPlan := .storeByte npc a v .done

/-- One word stored at `a`. -/
def accessStoreWord (npc a : Addr) (v : Word) : BusPlan := .storeWord npc a v .done

/-- A byte read, then written back with one bit changed (spec/20_memory.md R59). -/
def accessModify (npc a : Addr) (f : Byte → Byte) : BusPlan := .readByte a fun b => .storeByte npc a (f b) .done

/-- A pre-decrement store of a word: the source register as it is after the decrement (spec/40_data_transfer.md R141). -/
def accessPushFrom (s : State) (rs rd : Reg16) : BusPlan :=
  accessStoreWord (s.npc 2#16) (s.r16 rd - 2#16) ((s.setR16 rd (s.r16 rd - 2#16)).r16 rs)

/-- A call's push of the address after it, `len` bytes on (spec/44_branch.md R253). -/
def accessCall (s : State) (len : Addr) : BusPlan := accessStoreWord (s.npc len) (s.sp - 2#16) (s.npc len)

/-- `n` bytes from `src` to `dst`, read and written one by one (spec/20_memory.md R72). -/
def accessTransfer (npc : Addr) (n : Nat) (src dst : Addr) : BusPlan :=
  match n with
  | 0 => .done
  | m + 1 => .readByte src fun b => .storeByte npc dst b (accessTransfer npc m (src + 1#16) (dst + 1#16))

/-! ### The data accesses of each instruction (spec/20_memory.md R58) -/

/-- The data accesses instruction `i` makes when it begins in state `s`. -/
def dataAccesses (i : Instr) (s : State) : BusPlan :=
  match i with
  | .nop | .sleep | .stc _ | .ldcReg _ | .orc _ | .xorc _ | .andc _ | .ldcImm _ | .addBReg _ _ | .addW _ _ | .inc _
  | .adds1 _ | .adds2 _ | .movBReg _ _ | .movWReg _ _ | .addxReg _ _ | .daa _ | .shll _ | .shal _ | .shlr _ | .shar _
  | .rotxl _ | .rotl _ | .rotxr _ | .rotr _ | .orReg _ _ | .xorReg _ _ | .andReg _ _ | .notReg _ | .neg _ | .subB _ _
  | .subW _ _ | .dec _ | .subs1 _ | .subs2 _ | .cmpBReg _ _ | .cmpW _ _ | .subxReg _ _ | .das _ | .bra _ | .brn _ | .bhi _
  | .bls _ | .bcc _ | .bcs _ | .bne _ | .beq _ | .bvc _ | .bvs _ | .bpl _ | .bmi _ | .bge _ | .blt _ | .bgt _ | .ble _
  | .mulxu _ _ | .divxu _ _ | .jmpInd _ | .jmpAbs _ | .bsetRegReg _ _ | .bnotRegReg _ _ | .bclrRegReg _ _ | .btstRegReg _ _
  | .bstImmReg _ _ | .bistImmReg _ _ | .bsetImmReg _ _ | .bnotImmReg _ _ | .bclrImmReg _ _ | .btstImmReg _ _
  | .borImmReg _ _ | .biorImmReg _ _ | .bxorImmReg _ _ | .bixorImmReg _ _ | .bandImmReg _ _ | .biandImmReg _ _
  | .bldImmReg _ _ | .bildImmReg _ _ | .movWImm _ _ | .addBImm _ _ | .addxImm _ _ | .cmpBImm _ _ | .subxImm _ _ | .orImm _ _
  | .xorImm _ _ | .andImm _ _ | .movBImm _ _ => .done
  | .movBLoadAbs8 _ abs | .btstImmAbs _ abs | .borImmAbs _ abs | .biorImmAbs _ abs | .bxorImmAbs _ abs | .bixorImmAbs _ abs
  | .bandImmAbs _ abs | .biandImmAbs _ abs | .bldImmAbs _ abs | .bildImmAbs _ abs | .btstRegAbs _ abs =>
    accessLoadByte (eaAbs8 abs)
  | .movBStoreAbs8 rs abs => accessStoreByte (s.npc 2#16) (eaAbs8 abs) (s.r8 rs)
  | .rts => accessLoadWord s.sp
  | .bsr _ | .jsrInd _ => accessCall s 2#16
  | .rte => .readWord s.sp (accessLoadWord (s.sp + 2#16))
  | .jmpMem abs => accessLoadWord (eaMemInd abs)
  | .jsrAbs _ => accessCall s 4#16
  | .jsrMem abs => .readWord (eaMemInd abs) (accessCall s 2#16)
  | .movBLoadInd rs _ => accessLoadByte (eaInd s rs)
  | .movBStoreInd rs rd => accessStoreByte (s.npc 2#16) (eaInd s rd) (s.r8 rs)
  | .movWLoadInd rs _ => accessLoadWord (eaInd s rs)
  | .movWStoreInd rs rd => accessStoreWord (s.npc 2#16) (eaInd s rd) (s.r16 rs)
  | .movBLoadAbs16 abs _ => accessLoadByte abs
  | .movBStoreAbs16 rs abs => accessStoreByte (s.npc 4#16) abs (s.r8 rs)
  | .movWLoadAbs16 abs _ => accessLoadWord abs
  | .movWStoreAbs16 rs abs => accessStoreWord (s.npc 4#16) abs (s.r16 rs)
  | .movBPostInc rs _ => accessLoadByte (s.r16 rs)
  | .movBPreDec rs rd => accessStoreByte (s.npc 2#16) (s.r16 rd - 1#16) ((s.setR16 rd (s.r16 rd - 1#16)).r8 rs)
  | .movWPostInc rs _ => accessLoadWord (s.r16 rs)
  | .movWPreDec rs rd => accessPushFrom s rs rd
  | .pop _ => accessLoadWord (s.r16 7#3)
  | .push rn => accessPushFrom s rn 7#3
  | .movBLoadDisp disp rs _ => accessLoadByte (eaDisp s disp rs)
  | .movBStoreDisp rs disp rd => accessStoreByte (s.npc 4#16) (eaDisp s disp rd) (s.r8 rs)
  | .movWLoadDisp disp rs _ => accessLoadWord (eaDisp s disp rs)
  | .movWStoreDisp rs disp rd => accessStoreWord (s.npc 4#16) (eaDisp s disp rd) (s.r16 rs)
  | .eepmov => .readByte (s.r16 5#3) fun _ => .readByte (s.r16 6#3) fun _ =>
    accessTransfer (s.npc 4#16) (s.r8 12#4).toNat (s.r16 5#3) (s.r16 6#3)
  | .btstImmInd _ rd | .borImmInd _ rd | .biorImmInd _ rd | .bxorImmInd _ rd | .bixorImmInd _ rd | .bandImmInd _ rd
  | .biandImmInd _ rd | .bldImmInd _ rd | .bildImmInd _ rd | .btstRegInd _ rd => accessLoadByte (eaInd s rd)
  | .bstImmInd imm rd => accessModify (s.npc 4#16) (eaInd s rd) (bitStore (s.flag .c) imm)
  | .bstImmAbs imm abs => accessModify (s.npc 4#16) (eaAbs8 abs) (bitStore (s.flag .c) imm)
  | .bistImmInd imm rd => accessModify (s.npc 4#16) (eaInd s rd) (bitStore (!s.flag .c) imm)
  | .bistImmAbs imm abs => accessModify (s.npc 4#16) (eaAbs8 abs) (bitStore (!s.flag .c) imm)
  | .bsetImmInd imm rd => accessModify (s.npc 4#16) (eaInd s rd) (bitSet imm)
  | .bsetImmAbs imm abs => accessModify (s.npc 4#16) (eaAbs8 abs) (bitSet imm)
  | .bnotImmInd imm rd => accessModify (s.npc 4#16) (eaInd s rd) (bitInvert imm)
  | .bnotImmAbs imm abs => accessModify (s.npc 4#16) (eaAbs8 abs) (bitInvert imm)
  | .bclrImmInd imm rd => accessModify (s.npc 4#16) (eaInd s rd) (bitClear imm)
  | .bclrImmAbs imm abs => accessModify (s.npc 4#16) (eaAbs8 abs) (bitClear imm)
  | .bsetRegInd rn rd => accessModify (s.npc 4#16) (eaInd s rd) (bitSet (bitNumber s rn))
  | .bsetRegAbs rn abs => accessModify (s.npc 4#16) (eaAbs8 abs) (bitSet (bitNumber s rn))
  | .bnotRegInd rn rd => accessModify (s.npc 4#16) (eaInd s rd) (bitInvert (bitNumber s rn))
  | .bnotRegAbs rn abs => accessModify (s.npc 4#16) (eaAbs8 abs) (bitInvert (bitNumber s rn))
  | .bclrRegInd rn rd => accessModify (s.npc 4#16) (eaInd s rd) (bitClear (bitNumber s rn))
  | .bclrRegAbs rn abs => accessModify (s.npc 4#16) (eaAbs8 abs) (bitClear (bitNumber s rn))

/-- The accesses of an interrupt entry: the PC pushed, the word CCR : CCR pushed, the vector read (spec/60_exceptions.md R312). -/
def interruptAccesses (s : State) (src : IrqSource) : BusPlan :=
  .writeWord (s.sp - 2#16) s.pc (.writeWord (s.sp - 4#16) (joinBytes s.ccr s.ccr) (accessLoadWord src.vectorAddr))

/-- The access of reset exception handling: the vector read (R305). -/
def resetAccesses (s : State) : BusPlan := accessLoadWord s.chip.resetVectorAddr

/-! ### Processing that a reset abandons -/

/-- What RES leaves of processing it abandons once its accesses are `s`'s: `Reset`, I set, and registers, CCR and PC free, since "the
manual gives no account of what an abandoned instruction has already done" (R303, notes/assumptions/14.md). -/
def State.abandoned (s : State) : State :=
  { s with
    regs := Vector.ofFn (fun k => Config.freeRegister s.draws k.val)
    ccr := putFlag (Config.freeCcr s.draws) .i true
    pc := evenAddr (Config.freeWord s.draws)
    cpuState := .reset
    draws := s.draws + 1 }

end Sys2Proof.Machine
end

