-- ==== Sys2Proof/Machine/Control.lean ====
section
/-! DEFINITION. The phases of one step before an instruction's own effect: the environment's tick, reset, the interrupt check,
fetch and decode (spec/00_scope.md R19, spec/60_exceptions.md R303 to R310, R323). -/

namespace Sys2Proof.Machine

/-- What the environment presents to this step (spec/00_scope.md R8). -/
def State.tick (s : State) : EnvTick :=
  match s.env.ticks with
  | t :: _ => t
  | [] => EnvTick.idle

/-- RES goes low during this step. -/
def EnvTick.resLow (t : EnvTick) : Bool := t.res != .high

/-- The state with this step's tick used up. -/
def State.consumeTick (s : State) : State := { s with env := { s.env with ticks := s.env.ticks.tail } }

/-- `w1 = Fetch(pc)`, and `w2 = Fetch(pc + 2)` when the first byte is that of a 4-byte instruction, decoded (R19,
spec/30_encoding.md R81, R100). A code that is no instruction is refused (R101, R102). -/
def State.fetch (s : State) : Res Instr := do
  let w1 ← s.readWord s.pc
  let ws ← if isLong (hiByte w1) then do
      let w2 ← s.readWord (s.pc + 2#16)
      .ok [w1, w2]
    else .ok [w1]
  match decode (storageBytes ws) with
  | .ok (i, _) => .ok i
  | .error _ => .error .undefinedEncoding

/-- What a step comes to before an instruction executes. -/
inductive Phase where
  /-- The step is over without an instruction. -/
  | done (o : StepOutcome)
  /-- The step executes `i` in state `s`. -/
  | run (i : Instr) (s : State)

/-- Fetch, decode, and go on to execute. -/
def State.fetchPhase (s : State) : Phase :=
  match s.fetch with
  | .ok i => .run i s
  | .error e => .done (.refused e)

/-- The step in program execution state: the interrupt check, unless `irq_inhibit` skips it, then an instruction
(spec/60_exceptions.md R310). -/
def State.programPhase (s : State) (pending : List Nat) : Phase :=
  if s.irqInhibit then s.fetchPhase
  else
    match s.choose pending with
    | some (id, src) => .done (finish (s.acceptInterrupt id src))
    | none => s.fetchPhase

/-- The step in power-down state: an admissible request is taken, else nothing happens (R323). The CPU stays `STUCK` for as long as
none comes; the step is then a next state that differs only in the tick used up (notes/assumptions/16.md). -/
def State.powerDownPhase (s : State) (pending : List Nat) : Phase :=
  match s.choose pending with
  | some (id, src) => .done (finish (s.acceptInterrupt id src))
  | none => .done (.next s)

/-- An interrupt entry as it begins, and the accesses it will make. -/
def State.interruptBegun (s : State) (id : Nat) (src : IrqSource) : State × BusPlan := (s.accepted id, interruptAccesses s src)

/-- The instruction at the PC as it begins, and the accesses it will make. -/
def State.instructionBegun (s : State) : Res (State × BusPlan) := do
  let i ← s.fetch
  .ok (s, dataAccesses i s)

/-- What a step begins at this boundary, with the accesses it will make: reset exception handling, an interrupt entry, an instruction,
or nothing. -/
def State.begun (s : State) (pending : List Nat) : Res (State × BusPlan) :=
  match s.cpuState with
  | .reset => .ok (s, resetAccesses s)
  | .exceptionHandling => .ok (s, .done)
  | .powerDown =>
    match s.choose pending with
    | some (id, src) => .ok (s.interruptBegun id src)
    | none => .ok (s, .done)
  | .programExecution =>
    if s.irqInhibit then s.instructionBegun
    else
      match s.choose pending with
      | some (id, src) => .ok (s.interruptBegun id src)
      | none => s.instructionBegun

/-- RES low in the middle of what the step has begun: its first `k` data accesses have been made, and it is abandoned
(spec/60_exceptions.md R303, R304, spec/46_block_transfer.md R285). -/
def State.cutShort (s : State) (pending : List Nat) (k : Nat) : Res State := do
  let (s1, plan) ← s.begun pending
  let s2 ← plan.run k s1
  .ok s2.abandoned

/-- One step up to the instruction it executes, if any. RES low wins over everything, in every state (R302, R319, R321), and abandons
what is in progress (R303); released, it starts reset exception handling (R304, R305). -/
def phase (s : State) : Phase :=
  let t := s.tick
  let s1 := s.consumeTick
  match t.res with
  | .low => .done (.next s1.enterReset)
  | .lowAfter k => .done (finish (s1.cutShort t.pending k))
  | .high =>
    match s.cpuState with
    | .reset => .done (finish s1.resetSequence)
    | .exceptionHandling => .done (.fault .midException)
    | .powerDown => s1.powerDownPhase t.pending
    | .programExecution => s1.programPhase t.pending

/-- The bytes of `bs` in memory from the even address of the PC upward, one address after another (modulo 2^16). -/
def Memory.place (m : Memory) (a : Addr) (bs : List Byte) : Memory :=
  match bs with
  | [] => m
  | b :: rest => Memory.place (Memory.write m a.toNat b) (a + 1#16) rest

end Sys2Proof.Machine
end

