-- ==== Sys2Proof/Machine/Arithmetic.lean ====
section
/-! DEFINITION. The arithmetic instructions (spec/41_arithmetic.md R150 to R173). All are two bytes long, work on registers, and
read every operand before they write. -/

namespace Sys2Proof.Machine

/-! ### Shared shapes -/

/-- A byte result and a CCR written, then the next instruction. -/
def State.putByteResult (s : State) (rd : Reg8) (r ccr : Byte) : State := ((s.setR8 rd r).setCcr ccr).advance 2#16

/-- A word result and a CCR written, then the next instruction. -/
def State.putWordResult (s : State) (rd : Reg16) (r : Word) (ccr : Byte) : State := ((s.setR16 rd r).setCcr ccr).advance 2#16

/-- A byte addition or subtraction that writes its result and the five flags. -/
def aluByte (s : State) (rd : Reg8) (a : AluResult 8) : StepOutcome := .next (s.putByteResult rd a.r (putHNZVC s.ccr a))

/-- A word addition or subtraction that writes its result and the five flags. -/
def aluWord (s : State) (rd : Reg16) (a : AluResult 16) : StepOutcome := .next (s.putWordResult rd a.r (putHNZVC s.ccr a))

/-- A comparison: the five flags only (R158 to R160). -/
def compare {w : Nat} (s : State) (a : AluResult w) : StepOutcome := .next ((s.setCcr (putHNZVC s.ccr a)).advance 2#16)

/-- Addition with carry; Z as `ADDX_Z_STICKY` says (R155). -/
def addExtended (s : State) (rd : Reg8) (src : Byte) : StepOutcome :=
  let a := add8 (s.r8 rd) src (s.flag .c)
  .next (s.putByteResult rd a.r (if s.chip.addxZSticky then putHNZVCStickyZ s.ccr a else putHNZVC s.ccr a))

/-- Subtraction with borrow; Z only ever cleared (R164). -/
def subExtended (s : State) (rd : Reg8) (src : Byte) : StepOutcome :=
  let a := sub8 (s.r8 rd) src (s.flag .c)
  .next (s.putByteResult rd a.r (putHNZVCStickyZ s.ccr a))

/-- A constant added to a word register, no flag changed (R154, R163). -/
def addToPointer (s : State) (rd : Reg16) (k : Word) : StepOutcome := .next ((s.setR16 rd (s.r16 rd + k)).advance 2#16)

/-- Decimal adjust by a table (R168, R169). On a matching row: the sum, N and Z from it, C as `carry` says, H and V free. On none:
the register and every flag of `free` free. One draw stands for all the free values of one instruction. -/
def decimalAdjust (s : State) (rd : Reg8) (table : List AdjustRow) (carry : AdjustRow → Bool) (free : List Flag) : StepOutcome :=
  let a := s.r8 rd
  match adjustRow table s.ccr a with
  | some row =>
    let r := a + row.add
    .next ((s.putByteResult rd r (freeFlags (putFlag (putNZ s.ccr r) .c (carry row)) [.h, .v] s.draws)).drawn)
  | none => .next ((s.putByteResult rd (Config.freeByte s.draws) (freeFlags s.ccr free s.draws)).drawn)

/-! ### Addition -/

/-- `ADD.B #xx:8, Rd` (R151). -/
def execAddBImm (imm : Byte) (rd : Reg8) (s : State) : StepOutcome := aluByte s rd (add8 (s.r8 rd) imm false)

/-- `ADD.B Rs, Rd` (R152). -/
def execAddBReg (rs rd : Reg8) (s : State) : StepOutcome := aluByte s rd (add8 (s.r8 rd) (s.r8 rs) false)

/-- `ADD.W Rs, Rd` (R153). -/
def execAddW (rs rd : Reg16) (s : State) : StepOutcome := aluWord s rd (add16 (s.r16 rd) (s.r16 rs))

/-- `ADDS #1, Rd` (R154). -/
def execAdds1 (rd : Reg16) (s : State) : StepOutcome := addToPointer s rd 1#16

/-- `ADDS #2, Rd` (R154). -/
def execAdds2 (rd : Reg16) (s : State) : StepOutcome := addToPointer s rd 2#16

/-- `ADDX #xx:8, Rd` (R155). -/
def execAddxImm (imm : Byte) (rd : Reg8) (s : State) : StepOutcome := addExtended s rd imm

/-- `ADDX Rs, Rd` (R155). -/
def execAddxReg (rs rd : Reg8) (s : State) : StepOutcome := addExtended s rd (s.r8 rs)

/-- `INC Rd` (R156). -/
def execInc (rd : Reg8) (s : State) : StepOutcome :=
  let a := s.r8 rd
  .next (s.putByteResult rd (a + 1#8) (putNZV s.ccr (a + 1#8) (a == 0x7F#8)))

/-! ### Subtraction and comparison -/

/-- `DEC Rd` (R157). -/
def execDec (rd : Reg8) (s : State) : StepOutcome :=
  let a := s.r8 rd
  .next (s.putByteResult rd (a - 1#8) (putNZV s.ccr (a - 1#8) (a == 0x80#8)))

/-- `CMP.B #xx:8, Rd` (R158). -/
def execCmpBImm (imm : Byte) (rd : Reg8) (s : State) : StepOutcome := compare s (sub8 (s.r8 rd) imm false)

/-- `CMP.B Rs, Rd` (R159). -/
def execCmpBReg (rs rd : Reg8) (s : State) : StepOutcome := compare s (sub8 (s.r8 rd) (s.r8 rs) false)

/-- `CMP.W Rs, Rd` (R160). -/
def execCmpW (rs rd : Reg16) (s : State) : StepOutcome := compare s (sub16 (s.r16 rd) (s.r16 rs))

/-- `SUB.B Rs, Rd` (R161). -/
def execSubB (rs rd : Reg8) (s : State) : StepOutcome := aluByte s rd (sub8 (s.r8 rd) (s.r8 rs) false)

/-- `SUB.W Rs, Rd` (R162). -/
def execSubW (rs rd : Reg16) (s : State) : StepOutcome := aluWord s rd (sub16 (s.r16 rd) (s.r16 rs))

/-- `SUBS #1, Rd` (R163). -/
def execSubs1 (rd : Reg16) (s : State) : StepOutcome := addToPointer s rd (-1#16)

/-- `SUBS #2, Rd` (R163). -/
def execSubs2 (rd : Reg16) (s : State) : StepOutcome := addToPointer s rd (-2#16)

/-- `SUBX #xx:8, Rd` (R164). -/
def execSubxImm (imm : Byte) (rd : Reg8) (s : State) : StepOutcome := subExtended s rd imm

/-- `SUBX Rs, Rd` (R164). -/
def execSubxReg (rs rd : Reg8) (s : State) : StepOutcome := subExtended s rd (s.r8 rs)

/-- `NEG Rd` (R165). -/
def execNeg (rd : Reg8) (s : State) : StepOutcome := aluByte s rd (sub8 0x00#8 (s.r8 rd) false)

/-! ### Decimal adjust -/

/-- `DAA Rd` (R168): outside its table the register and N, Z, C, H, V are free. -/
def execDaa (rd : Reg8) (s : State) : StepOutcome := decimalAdjust s rd daaTable (·.cAfter) [.n, .z, .c, .h, .v]

/-- `DAS Rd` (R169): C is never written; outside its table the register and N, Z, H, V are free. -/
def execDas (rd : Reg8) (s : State) : StepOutcome := decimalAdjust s rd dasTable (fun _ => s.flag .c) [.n, .z, .h, .v]

/-! ### Multiply and divide -/

/-- `MULXU Rs, Rd` (R172): RdL times Rs, unsigned; no flag. -/
def execMulxu (rs : Reg8) (rd : Reg16) (s : State) : StepOutcome :=
  .next ((s.setR16 rd (BitVec.ofNat 16 ((loByte (s.r16 rd)).toNat * (s.r8 rs).toNat))).advance 2#16)

/-- The quotient of a division does not fit in 8 bits: the divisor is at most the upper byte of the dividend (R173). -/
def divOverflows (n : Word) (d : Byte) : Bool := decide (d.toNat ≤ (hiByte n).toNat)

/-- The remainder above the quotient, when the quotient fits (R173). -/
def divResult (n : Word) (d : Byte) : Word :=
  joinBytes (BitVec.ofNat 8 (n.toNat % d.toNat)) (BitVec.ofNat 8 (n.toNat / d.toNat))

/-- `DIVXU Rs, Rd` (R173): N is the divisor's bit 7 and Z tells a zero divisor; after a division by zero Rd and N are free, after an
overflow Rd, N and Z are. -/
def execDivxu (rs : Reg8) (rd : Reg16) (s : State) : StepOutcome :=
  let n := s.r16 rd
  let d := s.r8 rs
  if d = 0x00#8 then
    .next ((s.putWordResult rd (Config.freeWord s.draws) (freeFlags (putFlag s.ccr .z true) [.n] s.draws)).drawn)
  else if divOverflows n d then
    .next ((s.putWordResult rd (Config.freeWord s.draws) (freeFlags s.ccr [.n, .z] s.draws)).drawn)
  else .next (s.putWordResult rd (divResult n d) (putFlag (putFlag s.ccr .n d.msb) .z false))

end Sys2Proof.Machine
end

