-- ==== Sys2Proof/Machine/BlockTransfer.lean ====
section
/-! DEFINITION. EEPMOV (spec/46_block_transfer.md R285, R286): one step, whatever its length. -/

namespace Sys2Proof.Machine

/-- R4L, the byte count. -/
def regR4L : Reg8 := 12#4

/-- One byte transferred: read at R5, write at R6, both incremented, R4L decremented. `npc` is the end of the instruction, which no
transferred byte may reach (R285 (g)). -/
def eepmovByte (npc : Addr) (s : State) : Res State := do
  let (b, s1) ← s.readByte (s.r16 5#3)
  let s2 ← s1.storeByte npc (s1.r16 6#3) b
  let s3 := s2.setR16 5#3 (s2.r16 5#3 + 1#16)
  let s4 := s3.setR16 6#3 (s3.r16 6#3 + 1#16)
  .ok (s4.setR8 regR4L (s4.r8 regR4L - 1#8))

/-- `n` bytes transferred, one after another in ascending order. -/
def eepmovBytes (npc : Addr) (n : Nat) (s : State) : Res State :=
  match n with
  | 0 => .ok s
  | m + 1 => do
    let s1 ← eepmovByte npc s
    eepmovBytes npc m s1

/-- `EEPMOV` (R285): a read at R5 and a read at R6 whose values are discarded, then R4L bytes. -/
def execEepmov (s : State) : StepOutcome := finish do
  let (_, s1) ← s.readByte (s.r16 5#3)
  let (_, s2) ← s1.readByte (s1.r16 6#3)
  let s3 ← eepmovBytes (s.npc 4#16) (s.r8 regR4L).toNat s2
  .ok (s3.advance 4#16)

end Sys2Proof.Machine
end

