-- ==== Sys2Proof/Machine/Branch.lean ====
section
/-! DEFINITION. Branches, jumps, calls and return (spec/44_branch.md R250 to R262). None changes a flag. -/

namespace Sys2Proof.Machine

/-- `Bcc d:8` (R251): the branch when the condition holds on the CCR, else the next instruction. -/
def branchOn (k : Cond) (disp : Byte) (s : State) : StepOutcome :=
  if k.holds s.ccr then .next (s.jump (branchTarget (s.npc 2#16) disp)) else .next (s.advance 2#16)

/-- A call: `npc` pushed, then the jump (R253, R257 to R259). The target is found before the push. -/
def callTo (s : State) (target len : Addr) : StepOutcome := finish do
  let s1 ← s.pushWord (s.npc len) (s.npc len)
  .ok (s1.jump target)

/-- `BRA d:8` (synonym `BT`) (R251, R252). -/
def execBra (disp : Byte) (s : State) : StepOutcome := branchOn .always disp s

/-- `BRN d:8` (synonym `BF`) (R251, R252). -/
def execBrn (disp : Byte) (s : State) : StepOutcome := branchOn .never disp s

/-- `BHI d:8` (R251, R252). -/
def execBhi (disp : Byte) (s : State) : StepOutcome := branchOn .high disp s

/-- `BLS d:8` (R251, R252). -/
def execBls (disp : Byte) (s : State) : StepOutcome := branchOn .lowOrSame disp s

/-- `BCC d:8` (synonym `BHS`) (R251, R252). -/
def execBcc (disp : Byte) (s : State) : StepOutcome := branchOn .carryClear disp s

/-- `BCS d:8` (synonym `BLO`) (R251, R252). -/
def execBcs (disp : Byte) (s : State) : StepOutcome := branchOn .carrySet disp s

/-- `BNE d:8` (R251, R252). -/
def execBne (disp : Byte) (s : State) : StepOutcome := branchOn .notEqual disp s

/-- `BEQ d:8` (R251, R252). -/
def execBeq (disp : Byte) (s : State) : StepOutcome := branchOn .equal disp s

/-- `BVC d:8` (R251, R252). -/
def execBvc (disp : Byte) (s : State) : StepOutcome := branchOn .overflowClear disp s

/-- `BVS d:8` (R251, R252). -/
def execBvs (disp : Byte) (s : State) : StepOutcome := branchOn .overflowSet disp s

/-- `BPL d:8` (R251, R252). -/
def execBpl (disp : Byte) (s : State) : StepOutcome := branchOn .plus disp s

/-- `BMI d:8` (R251, R252). -/
def execBmi (disp : Byte) (s : State) : StepOutcome := branchOn .minus disp s

/-- `BGE d:8` (R251, R252). -/
def execBge (disp : Byte) (s : State) : StepOutcome := branchOn .greaterOrEqual disp s

/-- `BLT d:8` (R251, R252). -/
def execBlt (disp : Byte) (s : State) : StepOutcome := branchOn .lessThan disp s

/-- `BGT d:8` (R251, R252). -/
def execBgt (disp : Byte) (s : State) : StepOutcome := branchOn .greaterThan disp s

/-- `BLE d:8` (R251, R252). -/
def execBle (disp : Byte) (s : State) : StepOutcome := branchOn .lessOrEqual disp s

/-- `BSR d:8` (R253). -/
def execBsr (disp : Byte) (s : State) : StepOutcome := callTo s (branchTarget (s.npc 2#16) disp) 2#16

/-- `JMP @Rn` (R254). -/
def execJmpInd (rn : Reg16) (s : State) : StepOutcome := .next (s.jump (s.r16 rn))

/-- `JMP @aa:16` (R255). -/
def execJmpAbs (abs : Word) (s : State) : StepOutcome := .next (s.jump abs)

/-- `JMP @@aa:8` (R256). -/
def execJmpMem (abs : Byte) (s : State) : StepOutcome := finish do
  let t ← s.readWord (eaMemInd abs)
  .ok (s.jump t)

/-- `JSR @Rn` (R257): the register is read before the push. -/
def execJsrInd (rn : Reg16) (s : State) : StepOutcome := callTo s (s.r16 rn) 2#16

/-- `JSR @aa:16` (R258). -/
def execJsrAbs (abs : Word) (s : State) : StepOutcome := callTo s abs 4#16

/-- `JSR @@aa:8` (R259): the target word is read before the push. -/
def execJsrMem (abs : Byte) (s : State) : StepOutcome :=
  match s.readWord (eaMemInd abs) with
  | .ok t => callTo s t 2#16
  | .error e => .refused e

/-- `RTS` (R260). -/
def execRts (s : State) : StepOutcome := finish do
  let (t, s1) ← s.popWord
  .ok (s1.jump t)

end Sys2Proof.Machine
end

