-- ==== Sys2Proof/Machine/DataTransfer.lean ====
section
/-! DEFINITION. MOV, POP and PUSH (spec/40_data_transfer.md R120 to R145). A refused access ends the instruction (spec/20_memory.md
R60, R70). -/

namespace Sys2Proof.Machine

/-! ### Shared shapes -/

/-- The flags of a moved value: N and Z from it, V = 0 (R120). -/
def State.movFlags {w : Nat} (s : State) (v : BitVec w) : State := s.setCcr (putNZV s.ccr v false)

/-- A byte moved into an 8-bit register by an instruction of `len` bytes. -/
def State.moveToByte (s : State) (rd : Reg8) (v : Byte) (len : Addr) : State := ((s.setR8 rd v).movFlags v).advance len

/-- A word moved into a 16-bit register by an instruction of `len` bytes. -/
def State.moveToWord (s : State) (rd : Reg16) (v : Word) (len : Addr) : State := ((s.setR16 rd v).movFlags v).advance len

/-- A byte loaded from `ea` into an 8-bit register. -/
def loadByte (s : State) (ea : Addr) (rd : Reg8) (len : Addr) : StepOutcome := finish do
  let (v, s1) ← s.readByte ea
  .ok (s1.moveToByte rd v len)

/-- A word loaded from `ea` into a 16-bit register. -/
def loadWord (s : State) (ea : Addr) (rd : Reg16) (len : Addr) : StepOutcome := finish do
  let v ← s.readWord ea
  .ok (s.moveToWord rd v len)

/-- A byte moved to memory at `ea`. -/
def moveByteTo (s : State) (ea : Addr) (v : Byte) (len : Addr) : StepOutcome := finish do
  let s1 ← s.storeByte (s.npc len) ea v
  .ok ((s1.movFlags v).advance len)

/-- A word moved to memory at `ea`. -/
def moveWordTo (s : State) (ea : Addr) (v : Word) (len : Addr) : StepOutcome := finish do
  let s1 ← s.storeWord (s.npc len) ea v
  .ok ((s1.movFlags v).advance len)

/-- The byte pointer and the 8-bit destination of a post-increment load: the pointer plus 1 and the byte loaded, or, when the
destination is a half of the pointer, a pointer that is free (R145). -/
def State.postIncByte (s : State) (rs : Reg16) (rd : Reg8) (v : Byte) : State :=
  if regOf rd = rs then (s.setR16 rs (Config.freeWord s.draws)).drawn
  else (s.setR16 rs (s.r16 rs + 1#16)).setR8 rd v

/-- The word pointer and the 16-bit destination of a post-increment load: the pointer plus 2 and the word loaded, or, when they are
one register, a free value (R145). -/
def State.postIncWord (s : State) (rs rd : Reg16) (v : Word) : State :=
  if rd = rs then (s.setR16 rs (Config.freeWord s.draws)).drawn
  else (s.setR16 rs (s.r16 rs + 2#16)).setR16 rd v

/-- A post-increment load of a word: the read at the pointer, then pointer and destination (R137). -/
def popInto (s : State) (rs rd : Reg16) : StepOutcome := finish do
  let v ← s.readWord (s.r16 rs)
  .ok (((s.postIncWord rs rd v).movFlags v).advance 2#16)

/-- A pre-decrement store of a word: the pointer less 2, then the source register as it is after that, stored (R141). -/
def pushFrom (s : State) (rs rd : Reg16) : StepOutcome :=
  let s1 := s.setR16 rd (s.r16 rd - 2#16)
  moveWordTo s1 (s1.r16 rd) (s1.r16 rs) 2#16

/-! ### Register to register and immediate -/

/-- `MOV.B Rs, Rd` (R121). -/
def execMovBReg (rs rd : Reg8) (s : State) : StepOutcome := .next (s.moveToByte rd (s.r8 rs) 2#16)

/-- `MOV.W Rs, Rd` (R122). -/
def execMovWReg (rs rd : Reg16) (s : State) : StepOutcome := .next (s.moveToWord rd (s.r16 rs) 2#16)

/-- `MOV.B #xx:8, Rd` (R123). -/
def execMovBImm (imm : Byte) (rd : Reg8) (s : State) : StepOutcome := .next (s.moveToByte rd imm 2#16)

/-- `MOV.W #xx:16, Rd` (R129). -/
def execMovWImm (imm : Word) (rd : Reg16) (s : State) : StepOutcome := .next (s.moveToWord rd imm 4#16)

/-! ### Byte loads -/

/-- `MOV.B @Rs, Rd` (R124). -/
def execMovBLoadInd (rs : Reg16) (rd : Reg8) (s : State) : StepOutcome := loadByte s (eaInd s rs) rd 2#16

/-- `MOV.B @(d:16, Rs), Rd` (R125). -/
def execMovBLoadDisp (disp : Word) (rs : Reg16) (rd : Reg8) (s : State) : StepOutcome := loadByte s (eaDisp s disp rs) rd 4#16

/-- `MOV.B @Rs+, Rd` (R126, R145). -/
def execMovBPostInc (rs : Reg16) (rd : Reg8) (s : State) : StepOutcome := finish do
  let (v, s1) ← s.readByte (s.r16 rs)
  .ok (((s1.postIncByte rs rd v).movFlags v).advance 2#16)

/-- `MOV.B @aa:8, Rd` (R127). -/
def execMovBLoadAbs8 (rd : Reg8) (abs : Byte) (s : State) : StepOutcome := loadByte s (eaAbs8 abs) rd 2#16

/-- `MOV.B @aa:16, Rd` (R128). -/
def execMovBLoadAbs16 (abs : Word) (rd : Reg8) (s : State) : StepOutcome := loadByte s abs rd 4#16

/-! ### Word loads -/

/-- `MOV.W @Rs, Rd` (R130). -/
def execMovWLoadInd (rs rd : Reg16) (s : State) : StepOutcome := loadWord s (eaInd s rs) rd 2#16

/-- `MOV.W @(d:16, Rs), Rd` (R136). -/
def execMovWLoadDisp (disp : Word) (rs rd : Reg16) (s : State) : StepOutcome := loadWord s (eaDisp s disp rs) rd 4#16

/-- `MOV.W @Rs+, Rd` (R137, R145). -/
def execMovWPostInc (rs rd : Reg16) (s : State) : StepOutcome := popInto s rs rd

/-- `MOV.W @aa:16, Rd` (R138). -/
def execMovWLoadAbs16 (abs : Word) (rd : Reg16) (s : State) : StepOutcome := loadWord s abs rd 4#16

/-! ### Byte stores -/

/-- `MOV.B Rs, @Rd` (R131). -/
def execMovBStoreInd (rs : Reg8) (rd : Reg16) (s : State) : StepOutcome := moveByteTo s (eaInd s rd) (s.r8 rs) 2#16

/-- `MOV.B Rs, @(d:16, Rd)` (R132). -/
def execMovBStoreDisp (rs : Reg8) (disp : Word) (rd : Reg16) (s : State) : StepOutcome :=
  moveByteTo s (eaDisp s disp rd) (s.r8 rs) 4#16

/-- `MOV.B Rs, @-Rd` (R133): the source is read after the decrement. -/
def execMovBPreDec (rs : Reg8) (rd : Reg16) (s : State) : StepOutcome :=
  let s1 := s.setR16 rd (s.r16 rd - 1#16)
  moveByteTo s1 (s1.r16 rd) (s1.r8 rs) 2#16

/-- `MOV.B Rs, @aa:8` (R134). -/
def execMovBStoreAbs8 (rs : Reg8) (abs : Byte) (s : State) : StepOutcome := moveByteTo s (eaAbs8 abs) (s.r8 rs) 2#16

/-- `MOV.B Rs, @aa:16` (R135). -/
def execMovBStoreAbs16 (rs : Reg8) (abs : Word) (s : State) : StepOutcome := moveByteTo s abs (s.r8 rs) 4#16

/-! ### Word stores -/

/-- `MOV.W Rs, @Rd` (R139). -/
def execMovWStoreInd (rs rd : Reg16) (s : State) : StepOutcome := moveWordTo s (eaInd s rd) (s.r16 rs) 2#16

/-- `MOV.W Rs, @(d:16, Rd)` (R140). -/
def execMovWStoreDisp (rs : Reg16) (disp : Word) (rd : Reg16) (s : State) : StepOutcome :=
  moveWordTo s (eaDisp s disp rd) (s.r16 rs) 4#16

/-- `MOV.W Rs, @-Rd` (R141). -/
def execMovWPreDec (rs rd : Reg16) (s : State) : StepOutcome := pushFrom s rs rd

/-- `MOV.W Rs, @aa:16` (R142). -/
def execMovWStoreAbs16 (rs : Reg16) (abs : Word) (s : State) : StepOutcome := moveWordTo s abs (s.r16 rs) 4#16

/-! ### POP and PUSH -/

/-- `POP Rn`, `MOV.W @SP+, Rn` (R143). -/
def execPop (rn : Reg16) (s : State) : StepOutcome := popInto s 7#3 rn

/-- `PUSH Rn`, `MOV.W Rn, @-SP` (R144). -/
def execPush (rn : Reg16) (s : State) : StepOutcome := pushFrom s rn 7#3

end Sys2Proof.Machine
end

