-- ==== Sys2Proof/Machine/LogicShift.lean ====
section
/-! DEFINITION. Logic, shift and rotate instructions on an 8-bit register (spec/42_logic_shift.md R180 to R192). -/

namespace Sys2Proof.Machine

/-- A logic result: N and Z from it, V = 0, C kept (R180). -/
def logicByte (s : State) (rd : Reg8) (r : Byte) : StepOutcome :=
  .next (((s.setR8 rd r).setCcr (putNZV s.ccr r false)).advance 2#16)

/-- A shift or rotate result: N and Z from it, V and C as given (R180). -/
def shiftByte (s : State) (rd : Reg8) (r : Byte) (v c : Bool) : StepOutcome :=
  .next (((s.setR8 rd r).setCcr (putNZVC s.ccr r v c)).advance 2#16)

/-- `a[6:0] : b`. -/
def shiftIn0 (a : Byte) (b : Bool) : Byte := a.extractLsb' 0 7 ++ BitVec.ofBool b

/-- `b : a[7:1]`. -/
def shiftIn7 (a : Byte) (b : Bool) : Byte := BitVec.ofBool b ++ a.extractLsb' 1 7

/-- Bit 7. -/
def bit7 (a : Byte) : Bool := a.getLsbD 7

/-- Bit 0. -/
def bit0 (a : Byte) : Bool := a.getLsbD 0

/-- `AND #xx:8, Rd` (R181). -/
def execAndImm (imm : Byte) (rd : Reg8) (s : State) : StepOutcome := logicByte s rd (s.r8 rd &&& imm)

/-- `AND Rs, Rd` (R181). -/
def execAndReg (rs rd : Reg8) (s : State) : StepOutcome := logicByte s rd (s.r8 rd &&& s.r8 rs)

/-- `OR #xx:8, Rd` (R182). -/
def execOrImm (imm : Byte) (rd : Reg8) (s : State) : StepOutcome := logicByte s rd (s.r8 rd ||| imm)

/-- `OR Rs, Rd` (R182). -/
def execOrReg (rs rd : Reg8) (s : State) : StepOutcome := logicByte s rd (s.r8 rd ||| s.r8 rs)

/-- `XOR #xx:8, Rd` (R183). -/
def execXorImm (imm : Byte) (rd : Reg8) (s : State) : StepOutcome := logicByte s rd (s.r8 rd ^^^ imm)

/-- `XOR Rs, Rd` (R183). -/
def execXorReg (rs rd : Reg8) (s : State) : StepOutcome := logicByte s rd (s.r8 rd ^^^ s.r8 rs)

/-- `NOT Rd` (R184). -/
def execNotReg (rd : Reg8) (s : State) : StepOutcome := logicByte s rd (~~~(s.r8 rd))

/-- `SHAL Rd` (R185): V is set when bits 7 and 6 differ. -/
def execShal (rd : Reg8) (s : State) : StepOutcome :=
  let a := s.r8 rd
  shiftByte s rd (shiftIn0 a false) (bit7 a != a.getLsbD 6) (bit7 a)

/-- `SHAR Rd` (R186). -/
def execShar (rd : Reg8) (s : State) : StepOutcome :=
  let a := s.r8 rd
  shiftByte s rd (shiftIn7 a (bit7 a)) false (bit0 a)

/-- `SHLL Rd` (R187): C is bit 7 (spec/90_conflicts.md C3). -/
def execShll (rd : Reg8) (s : State) : StepOutcome :=
  let a := s.r8 rd
  shiftByte s rd (shiftIn0 a false) false (bit7 a)

/-- `SHLR Rd` (R188). -/
def execShlr (rd : Reg8) (s : State) : StepOutcome :=
  let a := s.r8 rd
  shiftByte s rd (shiftIn7 a false) false (bit0 a)

/-- `ROTL Rd` (R189). -/
def execRotl (rd : Reg8) (s : State) : StepOutcome :=
  let a := s.r8 rd
  shiftByte s rd (shiftIn0 a (bit7 a)) false (bit7 a)

/-- `ROTR Rd` (R190). -/
def execRotr (rd : Reg8) (s : State) : StepOutcome :=
  let a := s.r8 rd
  shiftByte s rd (shiftIn7 a (bit0 a)) false (bit0 a)

/-- `ROTXL Rd` (R191). -/
def execRotxl (rd : Reg8) (s : State) : StepOutcome :=
  let a := s.r8 rd
  shiftByte s rd (shiftIn0 a (s.flag .c)) false (bit7 a)

/-- `ROTXR Rd` (R192). -/
def execRotxr (rd : Reg8) (s : State) : StepOutcome :=
  let a := s.r8 rd
  shiftByte s rd (shiftIn7 a (s.flag .c)) false (bit0 a)

end Sys2Proof.Machine
end

