-- ==== Sys2Proof/Machine/SystemControl.lean ====
section
/-! DEFINITION. RTE, SLEEP, LDC, STC, ANDC, ORC, XORC and NOP (spec/45_system_control.md R270 to R279). -/

namespace Sys2Proof.Machine

/-- The whole CCR written from an operand: interrupts are deferred past the next instruction (R270). -/
def writeCcr (s : State) (v : Byte) : StepOutcome := .next ((s.setCcr v).advanceInhibit 2#16)

/-- `RTE` (R271). -/
def execRte (s : State) : StepOutcome := finish s.returnFromException

/-- `SLEEP` (R272): the PC at the next instruction, then power-down. -/
def execSleep (s : State) : StepOutcome := .next { s.advance 2#16 with cpuState := .powerDown }

/-- `LDC #xx:8, CCR` (R273). -/
def execLdcImm (imm : Byte) (s : State) : StepOutcome := writeCcr s imm

/-- `LDC Rs, CCR` (R274). -/
def execLdcReg (rs : Reg8) (s : State) : StepOutcome := writeCcr s (s.r8 rs)

/-- `STC CCR, Rd` (R275). -/
def execStc (rd : Reg8) (s : State) : StepOutcome := .next ((s.setR8 rd s.ccr).advance 2#16)

/-- `ANDC #xx:8, CCR` (R276). -/
def execAndc (imm : Byte) (s : State) : StepOutcome := writeCcr s (s.ccr &&& imm)

/-- `ORC #xx:8, CCR` (R277). -/
def execOrc (imm : Byte) (s : State) : StepOutcome := writeCcr s (s.ccr ||| imm)

/-- `XORC #xx:8, CCR` (R278). -/
def execXorc (imm : Byte) (s : State) : StepOutcome := writeCcr s (s.ccr ^^^ imm)

/-- `NOP` (R279). -/
def execNop (s : State) : StepOutcome := .next (s.advance 2#16)

end Sys2Proof.Machine
end

