-- ==== Sys2Proof/Machine/Dispatch.lean ====
section
/-! DEFINITION. The dispatch: one arm per instruction, each one call of its meaning. -/

namespace Sys2Proof.Machine

/-- The effect of one instruction (spec/00_scope.md R19 phases 3 and 4): the PC of `s` is the address of the instruction. -/
def exec (i : Instr) (s : State) : Host.Outcome State Fault Refusal :=
  match i with
  | .nop => Sys2Proof.Machine.execNop s
  | .sleep => Sys2Proof.Machine.execSleep s
  | .stc rd => Sys2Proof.Machine.execStc rd s
  | .ldcReg rs => Sys2Proof.Machine.execLdcReg rs s
  | .orc imm => Sys2Proof.Machine.execOrc imm s
  | .xorc imm => Sys2Proof.Machine.execXorc imm s
  | .andc imm => Sys2Proof.Machine.execAndc imm s
  | .ldcImm imm => Sys2Proof.Machine.execLdcImm imm s
  | .addBReg rs rd => Sys2Proof.Machine.execAddBReg rs rd s
  | .addW rs rd => Sys2Proof.Machine.execAddW rs rd s
  | .inc rd => Sys2Proof.Machine.execInc rd s
  | .adds1 rd => Sys2Proof.Machine.execAdds1 rd s
  | .adds2 rd => Sys2Proof.Machine.execAdds2 rd s
  | .movBReg rs rd => Sys2Proof.Machine.execMovBReg rs rd s
  | .movWReg rs rd => Sys2Proof.Machine.execMovWReg rs rd s
  | .addxReg rs rd => Sys2Proof.Machine.execAddxReg rs rd s
  | .daa rd => Sys2Proof.Machine.execDaa rd s
  | .shll rd => Sys2Proof.Machine.execShll rd s
  | .shal rd => Sys2Proof.Machine.execShal rd s
  | .shlr rd => Sys2Proof.Machine.execShlr rd s
  | .shar rd => Sys2Proof.Machine.execShar rd s
  | .rotxl rd => Sys2Proof.Machine.execRotxl rd s
  | .rotl rd => Sys2Proof.Machine.execRotl rd s
  | .rotxr rd => Sys2Proof.Machine.execRotxr rd s
  | .rotr rd => Sys2Proof.Machine.execRotr rd s
  | .orReg rs rd => Sys2Proof.Machine.execOrReg rs rd s
  | .xorReg rs rd => Sys2Proof.Machine.execXorReg rs rd s
  | .andReg rs rd => Sys2Proof.Machine.execAndReg rs rd s
  | .notReg rd => Sys2Proof.Machine.execNotReg rd s
  | .neg rd => Sys2Proof.Machine.execNeg rd s
  | .subB rs rd => Sys2Proof.Machine.execSubB rs rd s
  | .subW rs rd => Sys2Proof.Machine.execSubW rs rd s
  | .dec rd => Sys2Proof.Machine.execDec rd s
  | .subs1 rd => Sys2Proof.Machine.execSubs1 rd s
  | .subs2 rd => Sys2Proof.Machine.execSubs2 rd s
  | .cmpBReg rs rd => Sys2Proof.Machine.execCmpBReg rs rd s
  | .cmpW rs rd => Sys2Proof.Machine.execCmpW rs rd s
  | .subxReg rs rd => Sys2Proof.Machine.execSubxReg rs rd s
  | .das rd => Sys2Proof.Machine.execDas rd s
  | .movBLoadAbs8 rd abs => Sys2Proof.Machine.execMovBLoadAbs8 rd abs s
  | .movBStoreAbs8 rs abs => Sys2Proof.Machine.execMovBStoreAbs8 rs abs s
  | .bra disp => Sys2Proof.Machine.execBra disp s
  | .brn disp => Sys2Proof.Machine.execBrn disp s
  | .bhi disp => Sys2Proof.Machine.execBhi disp s
  | .bls disp => Sys2Proof.Machine.execBls disp s
  | .bcc disp => Sys2Proof.Machine.execBcc disp s
  | .bcs disp => Sys2Proof.Machine.execBcs disp s
  | .bne disp => Sys2Proof.Machine.execBne disp s
  | .beq disp => Sys2Proof.Machine.execBeq disp s
  | .bvc disp => Sys2Proof.Machine.execBvc disp s
  | .bvs disp => Sys2Proof.Machine.execBvs disp s
  | .bpl disp => Sys2Proof.Machine.execBpl disp s
  | .bmi disp => Sys2Proof.Machine.execBmi disp s
  | .bge disp => Sys2Proof.Machine.execBge disp s
  | .blt disp => Sys2Proof.Machine.execBlt disp s
  | .bgt disp => Sys2Proof.Machine.execBgt disp s
  | .ble disp => Sys2Proof.Machine.execBle disp s
  | .mulxu rs rd => Sys2Proof.Machine.execMulxu rs rd s
  | .divxu rs rd => Sys2Proof.Machine.execDivxu rs rd s
  | .rts => Sys2Proof.Machine.execRts s
  | .bsr disp => Sys2Proof.Machine.execBsr disp s
  | .rte => Sys2Proof.Machine.execRte s
  | .jmpInd rn => Sys2Proof.Machine.execJmpInd rn s
  | .jmpAbs abs => Sys2Proof.Machine.execJmpAbs abs s
  | .jmpMem abs => Sys2Proof.Machine.execJmpMem abs s
  | .jsrInd rn => Sys2Proof.Machine.execJsrInd rn s
  | .jsrAbs abs => Sys2Proof.Machine.execJsrAbs abs s
  | .jsrMem abs => Sys2Proof.Machine.execJsrMem abs s
  | .bsetRegReg rn rd => Sys2Proof.Machine.execBsetRegReg rn rd s
  | .bnotRegReg rn rd => Sys2Proof.Machine.execBnotRegReg rn rd s
  | .bclrRegReg rn rd => Sys2Proof.Machine.execBclrRegReg rn rd s
  | .btstRegReg rn rd => Sys2Proof.Machine.execBtstRegReg rn rd s
  | .bstImmReg imm rd => Sys2Proof.Machine.execBstImmReg imm rd s
  | .bistImmReg imm rd => Sys2Proof.Machine.execBistImmReg imm rd s
  | .bsetImmReg imm rd => Sys2Proof.Machine.execBsetImmReg imm rd s
  | .bnotImmReg imm rd => Sys2Proof.Machine.execBnotImmReg imm rd s
  | .bclrImmReg imm rd => Sys2Proof.Machine.execBclrImmReg imm rd s
  | .btstImmReg imm rd => Sys2Proof.Machine.execBtstImmReg imm rd s
  | .borImmReg imm rd => Sys2Proof.Machine.execBorImmReg imm rd s
  | .biorImmReg imm rd => Sys2Proof.Machine.execBiorImmReg imm rd s
  | .bxorImmReg imm rd => Sys2Proof.Machine.execBxorImmReg imm rd s
  | .bixorImmReg imm rd => Sys2Proof.Machine.execBixorImmReg imm rd s
  | .bandImmReg imm rd => Sys2Proof.Machine.execBandImmReg imm rd s
  | .biandImmReg imm rd => Sys2Proof.Machine.execBiandImmReg imm rd s
  | .bldImmReg imm rd => Sys2Proof.Machine.execBldImmReg imm rd s
  | .bildImmReg imm rd => Sys2Proof.Machine.execBildImmReg imm rd s
  | .movBLoadInd rs rd => Sys2Proof.Machine.execMovBLoadInd rs rd s
  | .movBStoreInd rs rd => Sys2Proof.Machine.execMovBStoreInd rs rd s
  | .movWLoadInd rs rd => Sys2Proof.Machine.execMovWLoadInd rs rd s
  | .movWStoreInd rs rd => Sys2Proof.Machine.execMovWStoreInd rs rd s
  | .movBLoadAbs16 abs rd => Sys2Proof.Machine.execMovBLoadAbs16 abs rd s
  | .movBStoreAbs16 rs abs => Sys2Proof.Machine.execMovBStoreAbs16 rs abs s
  | .movWLoadAbs16 abs rd => Sys2Proof.Machine.execMovWLoadAbs16 abs rd s
  | .movWStoreAbs16 rs abs => Sys2Proof.Machine.execMovWStoreAbs16 rs abs s
  | .movBPostInc rs rd => Sys2Proof.Machine.execMovBPostInc rs rd s
  | .movBPreDec rs rd => Sys2Proof.Machine.execMovBPreDec rs rd s
  | .movWPostInc rs rd => Sys2Proof.Machine.execMovWPostInc rs rd s
  | .movWPreDec rs rd => Sys2Proof.Machine.execMovWPreDec rs rd s
  | .pop rn => Sys2Proof.Machine.execPop rn s
  | .push rn => Sys2Proof.Machine.execPush rn s
  | .movBLoadDisp disp rs rd => Sys2Proof.Machine.execMovBLoadDisp disp rs rd s
  | .movBStoreDisp rs disp rd => Sys2Proof.Machine.execMovBStoreDisp rs disp rd s
  | .movWLoadDisp disp rs rd => Sys2Proof.Machine.execMovWLoadDisp disp rs rd s
  | .movWStoreDisp rs disp rd => Sys2Proof.Machine.execMovWStoreDisp rs disp rd s
  | .movWImm imm rd => Sys2Proof.Machine.execMovWImm imm rd s
  | .eepmov => Sys2Proof.Machine.execEepmov s
  | .btstImmInd imm rd => Sys2Proof.Machine.execBtstImmInd imm rd s
  | .btstImmAbs imm abs => Sys2Proof.Machine.execBtstImmAbs imm abs s
  | .borImmInd imm rd => Sys2Proof.Machine.execBorImmInd imm rd s
  | .borImmAbs imm abs => Sys2Proof.Machine.execBorImmAbs imm abs s
  | .biorImmInd imm rd => Sys2Proof.Machine.execBiorImmInd imm rd s
  | .biorImmAbs imm abs => Sys2Proof.Machine.execBiorImmAbs imm abs s
  | .bxorImmInd imm rd => Sys2Proof.Machine.execBxorImmInd imm rd s
  | .bxorImmAbs imm abs => Sys2Proof.Machine.execBxorImmAbs imm abs s
  | .bixorImmInd imm rd => Sys2Proof.Machine.execBixorImmInd imm rd s
  | .bixorImmAbs imm abs => Sys2Proof.Machine.execBixorImmAbs imm abs s
  | .bandImmInd imm rd => Sys2Proof.Machine.execBandImmInd imm rd s
  | .bandImmAbs imm abs => Sys2Proof.Machine.execBandImmAbs imm abs s
  | .biandImmInd imm rd => Sys2Proof.Machine.execBiandImmInd imm rd s
  | .biandImmAbs imm abs => Sys2Proof.Machine.execBiandImmAbs imm abs s
  | .bldImmInd imm rd => Sys2Proof.Machine.execBldImmInd imm rd s
  | .bldImmAbs imm abs => Sys2Proof.Machine.execBldImmAbs imm abs s
  | .bildImmInd imm rd => Sys2Proof.Machine.execBildImmInd imm rd s
  | .bildImmAbs imm abs => Sys2Proof.Machine.execBildImmAbs imm abs s
  | .btstRegInd rn rd => Sys2Proof.Machine.execBtstRegInd rn rd s
  | .btstRegAbs rn abs => Sys2Proof.Machine.execBtstRegAbs rn abs s
  | .bstImmInd imm rd => Sys2Proof.Machine.execBstImmInd imm rd s
  | .bstImmAbs imm abs => Sys2Proof.Machine.execBstImmAbs imm abs s
  | .bistImmInd imm rd => Sys2Proof.Machine.execBistImmInd imm rd s
  | .bistImmAbs imm abs => Sys2Proof.Machine.execBistImmAbs imm abs s
  | .bsetImmInd imm rd => Sys2Proof.Machine.execBsetImmInd imm rd s
  | .bsetImmAbs imm abs => Sys2Proof.Machine.execBsetImmAbs imm abs s
  | .bnotImmInd imm rd => Sys2Proof.Machine.execBnotImmInd imm rd s
  | .bnotImmAbs imm abs => Sys2Proof.Machine.execBnotImmAbs imm abs s
  | .bclrImmInd imm rd => Sys2Proof.Machine.execBclrImmInd imm rd s
  | .bclrImmAbs imm abs => Sys2Proof.Machine.execBclrImmAbs imm abs s
  | .bsetRegInd rn rd => Sys2Proof.Machine.execBsetRegInd rn rd s
  | .bsetRegAbs rn abs => Sys2Proof.Machine.execBsetRegAbs rn abs s
  | .bnotRegInd rn rd => Sys2Proof.Machine.execBnotRegInd rn rd s
  | .bnotRegAbs rn abs => Sys2Proof.Machine.execBnotRegAbs rn abs s
  | .bclrRegInd rn rd => Sys2Proof.Machine.execBclrRegInd rn rd s
  | .bclrRegAbs rn abs => Sys2Proof.Machine.execBclrRegAbs rn abs s
  | .addBImm imm rd => Sys2Proof.Machine.execAddBImm imm rd s
  | .addxImm imm rd => Sys2Proof.Machine.execAddxImm imm rd s
  | .cmpBImm imm rd => Sys2Proof.Machine.execCmpBImm imm rd s
  | .subxImm imm rd => Sys2Proof.Machine.execSubxImm imm rd s
  | .orImm imm rd => Sys2Proof.Machine.execOrImm imm rd s
  | .xorImm imm rd => Sys2Proof.Machine.execXorImm imm rd s
  | .andImm imm rd => Sys2Proof.Machine.execAndImm imm rd s
  | .movBImm imm rd => Sys2Proof.Machine.execMovBImm imm rd s

end Sys2Proof.Machine
end

