-- ==== Sys2Proof/Machine/Step.lean ====
section
/-! DEFINITION. One step of the machine (spec/00_scope.md R19), and the placing of one instruction where the next step fetches
it. -/

namespace Sys2Proof.Machine

/-- One step: what `phase` has done already, or the instruction it fetched. -/
def step (s : State) : Host.Outcome State Fault Refusal :=
  match phase s with
  | .done o => o
  | .run i s1 => exec i s1

/-- The state with the four bytes of an opcode-table word at the PC, and what the next step needs to fetch them: program execution
state, and a tick without reset or request if the script's next one has either (notes/assumptions/24.md). -/
def State.withFetchWord (s : State) (nbits w : Nat) : State :=
  { s with
    mem := Memory.place s.mem (evenAddr s.pc) (tableBytes nbits w)
    cpuState := .programExecution
    env := if s.tick = EnvTick.idle then s.env else { s.env with ticks := EnvTick.idle :: s.env.ticks } }

end Sys2Proof.Machine
end

