-- ==== Sys2Proof/Machine/Timing.lean ====
section
/-! DEFINITION. The number of states each instruction takes (spec/70_reset_and_hazards.md R354 to R358, R360). No step reads it: no
result depends on a state count (spec/92_eei_decisions.md D29, notes/assumptions/26.md). -/

namespace Sys2Proof.Machine

/-- The cycles of an instruction by kind, the columns of Table 2-4 (R357): instruction fetch, branch address read, stack operation,
byte data access, word data access, internal operation. -/
structure Cycles where
  i : Nat
  j : Nat
  k : Nat
  l : Nat
  m : Nat
  n : Nat
  deriving DecidableEq, Repr

/-- The states one cycle of each kind takes, a column of Table 2-3 (R355). -/
structure CycleStates where
  si : Nat
  sj : Nat
  sk : Nat
  sl : Nat
  sm : Nat
  sn : Nat
  deriving DecidableEq, Repr

/-- Table 2-3 for code, stack, branch addresses and data in on-chip memory. -/
def onChipStates : CycleStates where
  si := 2
  sj := 2
  sk := 2
  sl := 2
  sm := 2
  sn := 1

/-- The states of a byte access to a region: 2 in on-chip memory, 2 or 3 at a peripheral module (R354, R355). Table 2-3 has no
column for anything else, so at an unmapped address, where external memory stands (spec/20_memory.md R60), the number is free (DESIGN
CHOICE, notes/assumptions/26.md). -/
def byteAccessStates (kind : RegionKind) : Nat :=
  match kind with
  | .onChipMemory _ => 2
  | .peripheralModule threeState => if threeState then 3 else 2
  | .unmapped => Config.freeAccessStates

/-- Table 2-3 with the byte data in a region of the given kind and everything else in on-chip memory. -/
def statesWithData (kind : RegionKind) : CycleStates := { onChipStates with sl := byteAccessStates kind }

/-- `Execution states = I × SI + J × SJ + K × SK + L × SL + M × SM + N × SN` (R356). -/
def executionStates (c : Cycles) (s : CycleStates) : Nat :=
  c.i * s.si + c.j * s.sj + c.k * s.sk + c.l * s.sl + c.m * s.sm + c.n * s.sn

/-- Table 2-4 (R357); `n` is the initial value of R4L, which only EEPMOV's row reads. -/
def instrCycles (n : Nat) (i : Instr) : Cycles :=
  match i with
  | .nop | .sleep | .stc _ | .ldcReg _ | .orc _ | .xorc _ | .andc _ | .ldcImm _ | .addBReg _ _ | .addW _ _ | .inc _
  | .adds1 _ | .adds2 _ | .movBReg _ _ | .movWReg _ _ | .addxReg _ _ | .daa _ | .shll _ | .shal _ | .shlr _ | .shar _
  | .rotxl _ | .rotl _ | .rotxr _ | .rotr _ | .orReg _ _ | .xorReg _ _ | .andReg _ _ | .notReg _ | .neg _ | .subB _ _
  | .subW _ _ | .dec _ | .subs1 _ | .subs2 _ | .cmpBReg _ _ | .cmpW _ _ | .subxReg _ _ | .das _ | .bsetRegReg _ _
  | .bnotRegReg _ _ | .bclrRegReg _ _ | .btstRegReg _ _ | .bstImmReg _ _ | .bistImmReg _ _ | .bsetImmReg _ _
  | .bnotImmReg _ _ | .bclrImmReg _ _ | .btstImmReg _ _ | .borImmReg _ _ | .biorImmReg _ _ | .bxorImmReg _ _
  | .bixorImmReg _ _ | .bandImmReg _ _ | .biandImmReg _ _ | .bldImmReg _ _ | .bildImmReg _ _ | .addBImm _ _
  | .addxImm _ _ | .cmpBImm _ _ | .subxImm _ _ | .orImm _ _ | .xorImm _ _ | .andImm _ _ | .movBImm _ _ =>
    ⟨1, 0, 0, 0, 0, 0⟩
  | .movBLoadAbs8 _ _ | .movBStoreAbs8 _ _ | .movBLoadInd _ _ | .movBStoreInd _ _ =>
    ⟨1, 0, 0, 1, 0, 0⟩
  | .bra _ | .brn _ | .bhi _ | .bls _ | .bcc _ | .bcs _ | .bne _ | .beq _ | .bvc _ | .bvs _ | .bpl _ | .bmi _ | .bge _
  | .blt _ | .bgt _ | .ble _ | .jmpInd _ | .movWImm _ _ =>
    ⟨2, 0, 0, 0, 0, 0⟩
  | .mulxu _ _ | .divxu _ _ =>
    ⟨1, 0, 0, 0, 0, 12⟩
  | .rts | .jsrAbs _ =>
    ⟨2, 0, 1, 0, 0, 2⟩
  | .bsr _ | .jsrInd _ =>
    ⟨2, 0, 1, 0, 0, 0⟩
  | .rte =>
    ⟨2, 0, 2, 0, 0, 2⟩
  | .jmpAbs _ =>
    ⟨2, 0, 0, 0, 0, 2⟩
  | .jmpMem _ =>
    ⟨2, 1, 0, 0, 0, 2⟩
  | .jsrMem _ =>
    ⟨2, 1, 1, 0, 0, 0⟩
  | .movWLoadInd _ _ | .movWStoreInd _ _ =>
    ⟨1, 0, 0, 0, 1, 0⟩
  | .movBLoadAbs16 _ _ | .movBStoreAbs16 _ _ | .movBLoadDisp _ _ _ | .movBStoreDisp _ _ _ | .btstImmInd _ _
  | .btstImmAbs _ _ | .borImmInd _ _ | .borImmAbs _ _ | .biorImmInd _ _ | .biorImmAbs _ _ | .bxorImmInd _ _
  | .bxorImmAbs _ _ | .bixorImmInd _ _ | .bixorImmAbs _ _ | .bandImmInd _ _ | .bandImmAbs _ _ | .biandImmInd _ _
  | .biandImmAbs _ _ | .bldImmInd _ _ | .bldImmAbs _ _ | .bildImmInd _ _ | .bildImmAbs _ _ | .btstRegInd _ _
  | .btstRegAbs _ _ =>
    ⟨2, 0, 0, 1, 0, 0⟩
  | .movWLoadAbs16 _ _ | .movWStoreAbs16 _ _ | .movWLoadDisp _ _ _ | .movWStoreDisp _ _ _ =>
    ⟨2, 0, 0, 0, 1, 0⟩
  | .movBPostInc _ _ | .movBPreDec _ _ =>
    ⟨1, 0, 0, 1, 0, 2⟩
  | .movWPostInc _ _ | .movWPreDec _ _ =>
    ⟨1, 0, 0, 0, 1, 2⟩
  | .pop _ | .push _ =>
    ⟨1, 0, 1, 0, 0, 2⟩
  | .eepmov =>
    ⟨2, 0, 0, 2 * n + 2, 0, 1⟩
  | .bstImmInd _ _ | .bstImmAbs _ _ | .bistImmInd _ _ | .bistImmAbs _ _ | .bsetImmInd _ _ | .bsetImmAbs _ _
  | .bnotImmInd _ _ | .bnotImmAbs _ _ | .bclrImmInd _ _ | .bclrImmAbs _ _ | .bsetRegInd _ _ | .bsetRegAbs _ _
  | .bnotRegInd _ _ | .bnotRegAbs _ _ | .bclrRegInd _ _ | .bclrRegAbs _ _ =>
    ⟨2, 0, 0, 2, 0, 0⟩

/-- The "No. of states" of an instruction's page: everything in on-chip memory (R356). -/
def instrStates (n : Nat) (i : Instr) : Nat := executionStates (instrCycles n i) onChipStates

/-- The time of a number of states in nanoseconds at the chip's clock (R360). -/
def Chip.nanoseconds (c : Chip) (states : Nat) : Nat := states * 1000000000 / c.clockHz

end Sys2Proof.Machine
end

