-- ==== Sys2Proof/WellFormed.lean ====
section
/-! DEFINITION. When a term of `Instr` is the instruction its words decode to. Every operand of every constructor fits its
field by its type; the only terms with a second spelling are `MOV.W @R7+, Rd` and `MOV.W Rs, @-R7`, whose words are POP's
and PUSH's (spec/30_encoding.md R107 (c), notes/assumptions/12.md). -/

namespace Sys2Proof

/-- SP is R7 (spec/10_state.md R33). -/
def regSp : Reg16 := 7#3

/-- A term is well formed unless it spells POP or PUSH as the MOV.W it is identical to (R107 (c)). The two spellings have the
same meaning (`Sys2Proof.Machine.execPop_eq_execMovWPostInc` and its twin in Laws/Instructions.lean). -/
def Instr.wf (i : Instr) : Bool :=
  match i with
  | .movWPostInc rs _ => rs != regSp
  | .movWPreDec _ rd => rd != regSp
  | .nop | .sleep | .stc _ | .ldcReg _ | .orc _ | .xorc _ | .andc _ | .ldcImm _ | .addBReg _ _ | .addW _ _ | .inc _
  | .adds1 _ | .adds2 _ | .movBReg _ _ | .movWReg _ _ | .addxReg _ _ | .daa _ | .shll _ | .shal _ | .shlr _ | .shar _
  | .rotxl _ | .rotl _ | .rotxr _ | .rotr _ | .orReg _ _ | .xorReg _ _ | .andReg _ _ | .notReg _ | .neg _ | .subB _ _
  | .subW _ _ | .dec _ | .subs1 _ | .subs2 _ | .cmpBReg _ _ | .cmpW _ _ | .subxReg _ _ | .das _ | .movBLoadAbs8 _ _
  | .movBStoreAbs8 _ _ | .bra _ | .brn _ | .bhi _ | .bls _ | .bcc _ | .bcs _ | .bne _ | .beq _ | .bvc _ | .bvs _
  | .bpl _ | .bmi _ | .bge _ | .blt _ | .bgt _ | .ble _ | .mulxu _ _ | .divxu _ _ | .rts | .bsr _ | .rte | .jmpInd _
  | .jmpAbs _ | .jmpMem _ | .jsrInd _ | .jsrAbs _ | .jsrMem _ | .bsetRegReg _ _ | .bnotRegReg _ _ | .bclrRegReg _ _
  | .btstRegReg _ _ | .bstImmReg _ _ | .bistImmReg _ _ | .bsetImmReg _ _ | .bnotImmReg _ _ | .bclrImmReg _ _
  | .btstImmReg _ _ | .borImmReg _ _ | .biorImmReg _ _ | .bxorImmReg _ _ | .bixorImmReg _ _ | .bandImmReg _ _
  | .biandImmReg _ _ | .bldImmReg _ _ | .bildImmReg _ _ | .movBLoadInd _ _ | .movBStoreInd _ _ | .movWLoadInd _ _
  | .movWStoreInd _ _ | .movBLoadAbs16 _ _ | .movBStoreAbs16 _ _ | .movWLoadAbs16 _ _ | .movWStoreAbs16 _ _
  | .movBPostInc _ _ | .movBPreDec _ _ | .pop _ | .push _ | .movBLoadDisp _ _ _ | .movBStoreDisp _ _ _
  | .movWLoadDisp _ _ _ | .movWStoreDisp _ _ _ | .movWImm _ _ | .eepmov | .btstImmInd _ _ | .btstImmAbs _ _
  | .borImmInd _ _ | .borImmAbs _ _ | .biorImmInd _ _ | .biorImmAbs _ _ | .bxorImmInd _ _ | .bxorImmAbs _ _
  | .bixorImmInd _ _ | .bixorImmAbs _ _ | .bandImmInd _ _ | .bandImmAbs _ _ | .biandImmInd _ _ | .biandImmAbs _ _
  | .bldImmInd _ _ | .bldImmAbs _ _ | .bildImmInd _ _ | .bildImmAbs _ _ | .btstRegInd _ _ | .btstRegAbs _ _
  | .bstImmInd _ _ | .bstImmAbs _ _ | .bistImmInd _ _ | .bistImmAbs _ _ | .bsetImmInd _ _ | .bsetImmAbs _ _
  | .bnotImmInd _ _ | .bnotImmAbs _ _ | .bclrImmInd _ _ | .bclrImmAbs _ _ | .bsetRegInd _ _ | .bsetRegAbs _ _
  | .bnotRegInd _ _ | .bnotRegAbs _ _ | .bclrRegInd _ _ | .bclrRegAbs _ _ | .addBImm _ _ | .addxImm _ _
  | .cmpBImm _ _ | .subxImm _ _ | .orImm _ _ | .xorImm _ _ | .andImm _ _ | .movBImm _ _ => true

end Sys2Proof
end

