-- ==== Sys2Proof/Safety.lean ====
section
/-! DEFINITION. The vocabulary of the statements: what a state must hold for an access or a step to complete, what an instruction
leaves alone, the flag summary of spec/30_encoding.md R108, and the invariant of every step. -/

namespace Sys2Proof.Machine

/-! ### What stays -/

/-- Every half of a general register that `written` does not list reads as before. -/
def KeepsRegs (s t : State) (written : List Reg8) : Prop := ∀ c : Reg8, c ∉ written → t.r8 c = s.r8 c

/-- Every CCR bit that `written` does not list is as before. -/
def KeepsFlags (s t : State) (written : List Flag) : Prop := ∀ f : Flag, f ∉ written → t.flag f = s.flag f

/-- Every byte of memory at an address that `stored` does not list reads as before. -/
def KeepsMem (s t : State) (stored : List Addr) : Prop :=
  ∀ a : Addr, a ∉ stored → Memory.read t.mem a.toNat = Memory.read s.mem a.toNat

/-- The two bytes of the word at an address, upper first (spec/20_memory.md R53, R55). -/
def wordBytes (a : Addr) : List Addr := [evenAddr a, evenAddr a + 1#16]

/-- The byte of memory at `a`. -/
def State.mem8 (s : State) (a : Addr) : Byte := Memory.read s.mem a.toNat

/-- The word of memory at `a`: the byte at the even address above the byte after it (spec/20_memory.md R53, R55). -/
def State.mem16 (s : State) (a : Addr) : Word := joinBytes (s.mem8 (evenAddr a)) (s.mem8 (evenAddr a + 1#16))

/-- The N, Z and V that every MOV and logic operation leaves for a value (spec/40_data_transfer.md R120, spec/42_logic_shift.md
R180). -/
def valueFlags {w : Nat} (v : BitVec w) : List (Flag × Bool) := [(.n, v.msb), (.z, decide (v = 0#w)), (.v, false)]

/-- The two halves of a 16-bit register with the bytes of a word. -/
def wordReg (n : Reg16) (v : Word) : List (Reg8 × Byte) := [(nibbleOf false n, hiByte v), (nibbleOf true n, loByte v)]

/-- The two bytes of memory of the word at an address with the bytes of a word. -/
def wordCells (a : Addr) (v : Word) : List (Addr × Byte) := [(evenAddr a, hiByte v), (evenAddr a + 1#16, loByte v)]

/-- What separates `t` from `s`: the PC, the listed register halves, flags and bytes of memory have the values given with them, and
no other register half, flag or byte of memory, nor the environment, the operation state or the chip, differs. -/
def Differs (s t : State) (pc : Addr) (regs : List (Reg8 × Byte)) (flags : List (Flag × Bool))
    (bytes : List (Addr × Byte)) : Prop :=
  t.pc = pc ∧ (∀ p ∈ regs, t.r8 p.1 = p.2) ∧ (∀ p ∈ flags, t.flag p.1 = p.2) ∧ (∀ p ∈ bytes, t.mem8 p.1 = p.2) ∧
    KeepsRegs s t (regs.map Prod.fst) ∧ KeepsFlags s t (flags.map Prod.fst) ∧ KeepsMem s t (bytes.map Prod.fst) ∧
    t.env = s.env ∧ t.cpuState = s.cpuState ∧ t.chip = s.chip

/-- Instruction `i` completes in state `s`, and its next state differs from `s` as listed. -/
def Effect (i : Instr) (s : State) (pc : Addr) (regs : List (Reg8 × Byte)) (flags : List (Flag × Bool))
    (bytes : List (Addr × Byte)) : Prop :=
  ∃ t, exec i s = .next t ∧ Differs s t pc regs flags bytes

/-! ### Flags as the manual defines them (spec/00_scope.md R15) -/

/-- The true signed result does not fit in `w` bits. -/
def signedOverflow (w : Nat) (z : Int) : Bool := decide (z < -(2 ^ (w - 1) : Int)) || decide ((2 ^ (w - 1) : Int) ≤ z)

/-- The sum of two operands and an incoming carry, modulo the width. -/
def sumOf {w : Nat} (x y : BitVec w) (c : Bool) : BitVec w := BitVec.ofNat w (x.toNat + y.toNat + c.toNat)

/-- The difference of two operands less an incoming borrow, modulo the width. -/
def differenceOf {w : Nat} (x y : BitVec w) (c : Bool) : BitVec w := BitVec.ofInt w (x.toNat - y.toNat - c.toNat)

/-- H, N, V and C of an addition: carry out of the low `half` bits, signed overflow, carry out of the width. -/
def sumFlags {w : Nat} (half : Nat) (x y : BitVec w) (c : Bool) : List (Flag × Bool) := [
  (.h, decide (2 ^ half ≤ x.toNat % 2 ^ half + y.toNat % 2 ^ half + c.toNat)),
  (.n, (sumOf x y c).msb),
  (.v, signedOverflow w (x.toInt + y.toInt + c.toNat)),
  (.c, decide (2 ^ w ≤ x.toNat + y.toNat + c.toNat))]

/-- H, N, V and C of a subtraction: borrow from the low `half` bits, signed overflow, borrow from the width. -/
def differenceFlags {w : Nat} (half : Nat) (x y : BitVec w) (c : Bool) : List (Flag × Bool) := [
  (.h, decide (x.toNat % 2 ^ half < y.toNat % 2 ^ half + c.toNat)),
  (.n, (differenceOf x y c).msb),
  (.v, signedOverflow w (x.toInt - y.toInt - c.toNat)),
  (.c, decide (x.toNat < y.toNat + c.toNat))]

/-- The byte `r` is `b` with bit `n` made `v`. -/
def WithBit (b : Byte) (n : Imm3) (v : Bool) (r : Byte) : Prop :=
  ∀ k : Nat, k < 8 → r.getLsbD k = if k = n.toNat then v else b.getLsbD k

/-- A row (C, upper nibble from, to, H, lower nibble from, to, value added, C after) of a decimal-adjust table of
spec/41_arithmetic.md R168, R169 matches C, H and a register. -/
def AdjustCase (s : State) (rd : Reg8) (row : Bool × Nat × Nat × Bool × Nat × Nat × Byte × Bool) : Prop :=
  match row with
  | (c, hiFrom, hiTo, h, loFrom, loTo, _, _) =>
    s.flag .c = c ∧ s.flag .h = h ∧ hiFrom ≤ (s.r8 rd).toNat / 16 ∧ (s.r8 rd).toNat / 16 ≤ hiTo ∧
      loFrom ≤ (s.r8 rd).toNat % 16 ∧ (s.r8 rd).toNat % 16 ≤ loTo

/-- Packed BCD: two decimal digits (spec/00_scope.md R20). -/
def IsBcd (b : Byte) : Prop := b.toNat / 16 ≤ 9 ∧ b.toNat % 16 ≤ 9

/-- The number a packed BCD byte stands for. -/
def bcdValue (b : Byte) : Nat := 10 * (b.toNat / 16) + b.toNat % 16

/-! ### Where an access is admitted -/

/-- `a` is on-chip memory: it can be read (spec/20_memory.md R60). -/
def IsMemory (s : State) (a : Addr) : Prop := ∃ w, s.kindAt a = .onChipMemory w

/-- `a` is on-chip memory that can be written (R60). -/
def IsRam (s : State) (a : Addr) : Prop := s.kindAt a = .onChipMemory true

/-- `a` is a byte of a peripheral module (R60). -/
def IsPeripheral (s : State) (a : Addr) : Prop := ∃ w, s.kindAt a = .peripheralModule w

/-- The word at `a` can be read. -/
def WordReadable (s : State) (a : Addr) : Prop := ∀ b ∈ wordBytes a, IsMemory s b

/-- The word at `a` can be written. -/
def WordWritable (s : State) (a : Addr) : Prop := ∀ b ∈ wordBytes a, IsRam s b

/-- `a` is none of the four bytes at `npc` (spec/20_memory.md R70). -/
def NotImminent (npc a : Addr) : Prop := a ≠ npc ∧ a ≠ npc + 1#16 ∧ a ≠ npc + 2#16 ∧ a ≠ npc + 3#16

/-- An instruction that ends before `npc` can store a byte at `a`. -/
def ByteStorable (s : State) (npc a : Addr) : Prop := IsRam s a ∧ NotImminent npc a

/-- An instruction that ends before `npc` can store the word at `a`. -/
def WordStorable (s : State) (npc a : Addr) : Prop := ∀ b ∈ wordBytes a, IsRam s b ∧ NotImminent npc b

/-! ### A step that executes an instruction -/

/-- The four bytes at the PC. -/
def State.codeBytes (s : State) : List Byte :=
  [s.mem8 (evenAddr s.pc), s.mem8 (evenAddr s.pc + 1#16), s.mem8 (evenAddr s.pc + 2#16), s.mem8 (evenAddr s.pc + 3#16)]

/-- `id` is the request the interrupt check takes (spec/60_exceptions.md R310, R319): the first admissible one of those presented. -/
def IsChosen (s : State) (id : Nat) (src : IrqSource) : Prop :=
  ∃ before after, s.tick.pending = before ++ id :: after ∧ s.admissible id = some src ∧ ∀ k ∈ before, s.admissible k = none

/-- This step executes an instruction: RES high, program execution state, and no interrupt accepted (spec/00_scope.md R19,
spec/60_exceptions.md R310). -/
def Executes (s : State) : Prop :=
  s.tick.resLow = false ∧ s.cpuState = .programExecution ∧ (s.irqInhibit = true ∨ ∀ id ∈ s.tick.pending, s.admissible id = none)

/-- RES goes low after `k` data accesses of instruction `i`, which this step has begun (spec/60_exceptions.md R303, R304): no
interrupt is accepted before it, and its bytes lie in on-chip memory. -/
def AbandonsAfter (s : State) (i : Instr) (k : Nat) : Prop :=
  s.tick.res = .lowAfter k ∧ s.cpuState = .programExecution ∧
    (s.irqInhibit = true ∨ ∀ id ∈ s.tick.pending, s.admissible id = none) ∧
    (∃ rest, decode s.codeBytes = .ok (i, rest)) ∧
    ∀ j : Nat, j < i.length.toNat → IsMemory s (evenAddr s.pc + BitVec.ofNat 16 j)

/-! ### What the environment hears and is told (spec/20_memory.md R62) -/

/-- The state once the environment has answered a byte read at `a` with `b`, the next answers being `more`. -/
def State.heard (s : State) (a : Addr) (b : Byte) (more : List Byte) : State :=
  { s with env := { s.env with periphIn := more, seen := .read a b :: s.env.seen } }

/-- The state once the environment has been told of a byte written at `a`. -/
def State.said (s : State) (a : Addr) (v : Byte) : State :=
  { s with env := { s.env with seen := .write a v :: s.env.seen } }

/-- The 4-byte bit instruction `i` completes on the peripheral byte at `a`: the read is answered `b`, and the environment is told of a
write of `b` with bit `n` made `v` (R59, R62). -/
def PeripheralBitModify (i : Instr) (s : State) (a : Addr) (b : Byte) (more : List Byte) (n : Imm3) (v : Bool) : Prop :=
  ∃ r t, WithBit b n v r ∧ exec i s = .next t ∧ Differs ((s.heard a b more).said a r) t (s.pc + 4#16) [] [] []

/-- The 4-byte bit instruction `i` completes on the peripheral byte at `a`: the read is answered `b`, and of the flags only the one
given differs (R62). -/
def PeripheralBitTest (i : Instr) (s : State) (a : Addr) (b : Byte) (more : List Byte) (flag : Flag × Bool) : Prop :=
  ∃ t, exec i s = .next t ∧ Differs (s.heard a b more) t (s.pc + 4#16) [] [flag] []

/-! ### Kinds of instruction -/

/-- The CCR bits an instruction may change, from the summary of spec/30_encoding.md R108. -/
def flagsWritten (i : Instr) : List Flag :=
  match i with
  | .ldcReg _ | .orc _ | .xorc _ | .andc _ | .ldcImm _ | .rte => [.i, .u6, .h, .u4, .n, .z, .v, .c]
  | .addBReg _ _ | .addW _ _ | .addxReg _ _ | .neg _ | .subB _ _ | .subW _ _ | .cmpBReg _ _ | .cmpW _ _ | .subxReg _ _
  | .addBImm _ _ | .addxImm _ _ | .cmpBImm _ _ | .subxImm _ _ => [.h, .n, .z, .v, .c]
  | .daa _ => [.h, .n, .z, .v, .c]
  | .das _ => [.h, .n, .z, .v]
  | .inc _ | .movBReg _ _ | .movWReg _ _ | .orReg _ _ | .xorReg _ _ | .andReg _ _ | .notReg _ | .dec _
  | .movBLoadAbs8 _ _ | .movBStoreAbs8 _ _ | .movBLoadInd _ _ | .movBStoreInd _ _ | .movWLoadInd _ _
  | .movWStoreInd _ _ | .movBLoadAbs16 _ _ | .movBStoreAbs16 _ _ | .movWLoadAbs16 _ _ | .movWStoreAbs16 _ _
  | .movBPostInc _ _ | .movBPreDec _ _ | .movWPostInc _ _ | .movWPreDec _ _ | .pop _ | .push _ | .movBLoadDisp _ _ _
  | .movBStoreDisp _ _ _ | .movWLoadDisp _ _ _ | .movWStoreDisp _ _ _ | .movWImm _ _ | .orImm _ _ | .xorImm _ _
  | .andImm _ _ | .movBImm _ _ => [.n, .z, .v]
  | .divxu _ _ => [.n, .z]
  | .shll _ | .shal _ | .shlr _ | .shar _ | .rotxl _ | .rotl _ | .rotxr _ | .rotr _ => [.n, .z, .v, .c]
  | .btstRegReg _ _ | .btstImmReg _ _ | .btstImmInd _ _ | .btstImmAbs _ _ | .btstRegInd _ _ | .btstRegAbs _ _ => [.z]
  | .borImmReg _ _ | .biorImmReg _ _ | .bxorImmReg _ _ | .bixorImmReg _ _ | .bandImmReg _ _ | .biandImmReg _ _
  | .bldImmReg _ _ | .bildImmReg _ _ | .borImmInd _ _ | .borImmAbs _ _ | .biorImmInd _ _ | .biorImmAbs _ _
  | .bxorImmInd _ _ | .bxorImmAbs _ _ | .bixorImmInd _ _ | .bixorImmAbs _ _ | .bandImmInd _ _ | .bandImmAbs _ _
  | .biandImmInd _ _ | .biandImmAbs _ _ | .bldImmInd _ _ | .bldImmAbs _ _ | .bildImmInd _ _ | .bildImmAbs _ _ => [.c]
  | .nop | .sleep | .stc _ | .adds1 _ | .adds2 _ | .subs1 _ | .subs2 _ | .bra _ | .brn _ | .bhi _ | .bls _ | .bcc _
  | .bcs _ | .bne _ | .beq _ | .bvc _ | .bvs _ | .bpl _ | .bmi _ | .bge _ | .blt _ | .bgt _ | .ble _ | .mulxu _ _
  | .rts | .bsr _ | .jmpInd _ | .jmpAbs _ | .jmpMem _ | .jsrInd _ | .jsrAbs _ | .jsrMem _ | .bsetRegReg _ _
  | .bnotRegReg _ _ | .bclrRegReg _ _ | .bstImmReg _ _ | .bistImmReg _ _ | .bsetImmReg _ _ | .bnotImmReg _ _
  | .bclrImmReg _ _ | .eepmov | .bstImmInd _ _ | .bstImmAbs _ _ | .bistImmInd _ _ | .bistImmAbs _ _ | .bsetImmInd _ _
  | .bsetImmAbs _ _ | .bnotImmInd _ _ | .bnotImmAbs _ _ | .bclrImmInd _ _ | .bclrImmAbs _ _ | .bsetRegInd _ _
  | .bsetRegAbs _ _ | .bnotRegInd _ _ | .bnotRegAbs _ _ | .bclrRegInd _ _ | .bclrRegAbs _ _ => []

/-- LDC, ANDC, ORC, XORC: the instructions that defer interrupts (spec/10_state.md R45). -/
def defersInterrupts (i : Instr) : Bool :=
  match i with
  | .ldcReg _ | .orc _ | .xorc _ | .andc _ | .ldcImm _ => true
  | .nop | .sleep | .stc _ | .addBReg _ _ | .addW _ _ | .inc _ | .adds1 _ | .adds2 _ | .movBReg _ _ | .movWReg _ _
  | .addxReg _ _ | .daa _ | .shll _ | .shal _ | .shlr _ | .shar _ | .rotxl _ | .rotl _ | .rotxr _ | .rotr _
  | .orReg _ _ | .xorReg _ _ | .andReg _ _ | .notReg _ | .neg _ | .subB _ _ | .subW _ _ | .dec _ | .subs1 _ | .subs2 _
  | .cmpBReg _ _ | .cmpW _ _ | .subxReg _ _ | .das _ | .movBLoadAbs8 _ _ | .movBStoreAbs8 _ _ | .bra _ | .brn _
  | .bhi _ | .bls _ | .bcc _ | .bcs _ | .bne _ | .beq _ | .bvc _ | .bvs _ | .bpl _ | .bmi _ | .bge _ | .blt _ | .bgt _
  | .ble _ | .mulxu _ _ | .divxu _ _ | .rts | .bsr _ | .rte | .jmpInd _ | .jmpAbs _ | .jmpMem _ | .jsrInd _
  | .jsrAbs _ | .jsrMem _ | .bsetRegReg _ _ | .bnotRegReg _ _ | .bclrRegReg _ _ | .btstRegReg _ _ | .bstImmReg _ _
  | .bistImmReg _ _ | .bsetImmReg _ _ | .bnotImmReg _ _ | .bclrImmReg _ _ | .btstImmReg _ _ | .borImmReg _ _
  | .biorImmReg _ _ | .bxorImmReg _ _ | .bixorImmReg _ _ | .bandImmReg _ _ | .biandImmReg _ _ | .bldImmReg _ _
  | .bildImmReg _ _ | .movBLoadInd _ _ | .movBStoreInd _ _ | .movWLoadInd _ _ | .movWStoreInd _ _ | .movBLoadAbs16 _ _
  | .movBStoreAbs16 _ _ | .movWLoadAbs16 _ _ | .movWStoreAbs16 _ _ | .movBPostInc _ _ | .movBPreDec _ _
  | .movWPostInc _ _ | .movWPreDec _ _ | .pop _ | .push _ | .movBLoadDisp _ _ _ | .movBStoreDisp _ _ _
  | .movWLoadDisp _ _ _ | .movWStoreDisp _ _ _ | .movWImm _ _ | .eepmov | .btstImmInd _ _ | .btstImmAbs _ _
  | .borImmInd _ _ | .borImmAbs _ _ | .biorImmInd _ _ | .biorImmAbs _ _ | .bxorImmInd _ _ | .bxorImmAbs _ _
  | .bixorImmInd _ _ | .bixorImmAbs _ _ | .bandImmInd _ _ | .bandImmAbs _ _ | .biandImmInd _ _ | .biandImmAbs _ _
  | .bldImmInd _ _ | .bldImmAbs _ _ | .bildImmInd _ _ | .bildImmAbs _ _ | .btstRegInd _ _ | .btstRegAbs _ _
  | .bstImmInd _ _ | .bstImmAbs _ _ | .bistImmInd _ _ | .bistImmAbs _ _ | .bsetImmInd _ _ | .bsetImmAbs _ _
  | .bnotImmInd _ _ | .bnotImmAbs _ _ | .bclrImmInd _ _ | .bclrImmAbs _ _ | .bsetRegInd _ _ | .bsetRegAbs _ _
  | .bnotRegInd _ _ | .bnotRegAbs _ _ | .bclrRegInd _ _ | .bclrRegAbs _ _ | .addBImm _ _ | .addxImm _ _ | .cmpBImm _ _
  | .subxImm _ _ | .orImm _ _ | .xorImm _ _ | .andImm _ _ | .movBImm _ _ => false

/-- The control transfers: the instructions that may assign the PC (spec/10_state.md R34). -/
def transfersControl (i : Instr) : Bool :=
  match i with
  | .bra _ | .brn _ | .bhi _ | .bls _ | .bcc _ | .bcs _ | .bne _ | .beq _ | .bvc _ | .bvs _ | .bpl _ | .bmi _ | .bge _
  | .blt _ | .bgt _ | .ble _ | .rts | .bsr _ | .rte | .jmpInd _ | .jmpAbs _ | .jmpMem _ | .jsrInd _ | .jsrAbs _
  | .jsrMem _ => true
  | .nop | .sleep | .stc _ | .ldcReg _ | .orc _ | .xorc _ | .andc _ | .ldcImm _ | .addBReg _ _ | .addW _ _ | .inc _
  | .adds1 _ | .adds2 _ | .movBReg _ _ | .movWReg _ _ | .addxReg _ _ | .daa _ | .shll _ | .shal _ | .shlr _ | .shar _
  | .rotxl _ | .rotl _ | .rotxr _ | .rotr _ | .orReg _ _ | .xorReg _ _ | .andReg _ _ | .notReg _ | .neg _ | .subB _ _
  | .subW _ _ | .dec _ | .subs1 _ | .subs2 _ | .cmpBReg _ _ | .cmpW _ _ | .subxReg _ _ | .das _ | .movBLoadAbs8 _ _
  | .movBStoreAbs8 _ _ | .mulxu _ _ | .divxu _ _ | .bsetRegReg _ _ | .bnotRegReg _ _ | .bclrRegReg _ _
  | .btstRegReg _ _ | .bstImmReg _ _ | .bistImmReg _ _ | .bsetImmReg _ _ | .bnotImmReg _ _ | .bclrImmReg _ _
  | .btstImmReg _ _ | .borImmReg _ _ | .biorImmReg _ _ | .bxorImmReg _ _ | .bixorImmReg _ _ | .bandImmReg _ _
  | .biandImmReg _ _ | .bldImmReg _ _ | .bildImmReg _ _ | .movBLoadInd _ _ | .movBStoreInd _ _ | .movWLoadInd _ _
  | .movWStoreInd _ _ | .movBLoadAbs16 _ _ | .movBStoreAbs16 _ _ | .movWLoadAbs16 _ _ | .movWStoreAbs16 _ _
  | .movBPostInc _ _ | .movBPreDec _ _ | .movWPostInc _ _ | .movWPreDec _ _ | .pop _ | .push _ | .movBLoadDisp _ _ _
  | .movBStoreDisp _ _ _ | .movWLoadDisp _ _ _ | .movWStoreDisp _ _ _ | .movWImm _ _ | .eepmov | .btstImmInd _ _
  | .btstImmAbs _ _ | .borImmInd _ _ | .borImmAbs _ _ | .biorImmInd _ _ | .biorImmAbs _ _ | .bxorImmInd _ _
  | .bxorImmAbs _ _ | .bixorImmInd _ _ | .bixorImmAbs _ _ | .bandImmInd _ _ | .bandImmAbs _ _ | .biandImmInd _ _
  | .biandImmAbs _ _ | .bldImmInd _ _ | .bldImmAbs _ _ | .bildImmInd _ _ | .bildImmAbs _ _ | .btstRegInd _ _
  | .btstRegAbs _ _ | .bstImmInd _ _ | .bstImmAbs _ _ | .bistImmInd _ _ | .bistImmAbs _ _ | .bsetImmInd _ _
  | .bsetImmAbs _ _ | .bnotImmInd _ _ | .bnotImmAbs _ _ | .bclrImmInd _ _ | .bclrImmAbs _ _ | .bsetRegInd _ _
  | .bsetRegAbs _ _ | .bnotRegInd _ _ | .bnotRegAbs _ _ | .bclrRegInd _ _ | .bclrRegAbs _ _ | .addBImm _ _
  | .addxImm _ _ | .cmpBImm _ _ | .subxImm _ _ | .orImm _ _ | .xorImm _ _ | .andImm _ _ | .movBImm _ _ => false

/-- The instructions that write memory (spec/20_memory.md R58). -/
def storesMemory (i : Instr) : Bool :=
  match i with
  | .movBStoreAbs8 _ _ | .bsr _ | .jsrInd _ | .jsrAbs _ | .jsrMem _ | .movBStoreInd _ _ | .movWStoreInd _ _
  | .movBStoreAbs16 _ _ | .movWStoreAbs16 _ _ | .movBPreDec _ _ | .movWPreDec _ _ | .push _ | .movBStoreDisp _ _ _
  | .movWStoreDisp _ _ _ | .eepmov | .bstImmInd _ _ | .bstImmAbs _ _ | .bistImmInd _ _ | .bistImmAbs _ _
  | .bsetImmInd _ _ | .bsetImmAbs _ _ | .bnotImmInd _ _ | .bnotImmAbs _ _ | .bclrImmInd _ _ | .bclrImmAbs _ _
  | .bsetRegInd _ _ | .bsetRegAbs _ _ | .bnotRegInd _ _ | .bnotRegAbs _ _ | .bclrRegInd _ _ | .bclrRegAbs _ _ => true
  | .nop | .sleep | .stc _ | .ldcReg _ | .orc _ | .xorc _ | .andc _ | .ldcImm _ | .addBReg _ _ | .addW _ _ | .inc _
  | .adds1 _ | .adds2 _ | .movBReg _ _ | .movWReg _ _ | .addxReg _ _ | .daa _ | .shll _ | .shal _ | .shlr _ | .shar _
  | .rotxl _ | .rotl _ | .rotxr _ | .rotr _ | .orReg _ _ | .xorReg _ _ | .andReg _ _ | .notReg _ | .neg _ | .subB _ _
  | .subW _ _ | .dec _ | .subs1 _ | .subs2 _ | .cmpBReg _ _ | .cmpW _ _ | .subxReg _ _ | .das _ | .movBLoadAbs8 _ _
  | .bra _ | .brn _ | .bhi _ | .bls _ | .bcc _ | .bcs _ | .bne _ | .beq _ | .bvc _ | .bvs _ | .bpl _ | .bmi _ | .bge _
  | .blt _ | .bgt _ | .ble _ | .mulxu _ _ | .divxu _ _ | .rts | .rte | .jmpInd _ | .jmpAbs _ | .jmpMem _
  | .bsetRegReg _ _ | .bnotRegReg _ _ | .bclrRegReg _ _ | .btstRegReg _ _ | .bstImmReg _ _ | .bistImmReg _ _
  | .bsetImmReg _ _ | .bnotImmReg _ _ | .bclrImmReg _ _ | .btstImmReg _ _ | .borImmReg _ _ | .biorImmReg _ _
  | .bxorImmReg _ _ | .bixorImmReg _ _ | .bandImmReg _ _ | .biandImmReg _ _ | .bldImmReg _ _ | .bildImmReg _ _
  | .movBLoadInd _ _ | .movWLoadInd _ _ | .movBLoadAbs16 _ _ | .movWLoadAbs16 _ _ | .movBPostInc _ _
  | .movWPostInc _ _ | .pop _ | .movBLoadDisp _ _ _ | .movWLoadDisp _ _ _ | .movWImm _ _ | .btstImmInd _ _
  | .btstImmAbs _ _ | .borImmInd _ _ | .borImmAbs _ _ | .biorImmInd _ _ | .biorImmAbs _ _ | .bxorImmInd _ _
  | .bxorImmAbs _ _ | .bixorImmInd _ _ | .bixorImmAbs _ _ | .bandImmInd _ _ | .bandImmAbs _ _ | .biandImmInd _ _
  | .biandImmAbs _ _ | .bldImmInd _ _ | .bldImmAbs _ _ | .bildImmInd _ _ | .bildImmAbs _ _ | .btstRegInd _ _
  | .btstRegAbs _ _ | .addBImm _ _ | .addxImm _ _ | .cmpBImm _ _ | .subxImm _ _ | .orImm _ _ | .xorImm _ _
  | .andImm _ _ | .movBImm _ _ => false

/-! ### The invariant of every step -/

/-- What every reachable state satisfies: memory in its canonical form, the PC even (spec/10_state.md R35), and no step ending in
the transient exception-handling state (R46). -/
def Inv (s : State) : Prop := Memory.wf s.mem = true ∧ s.pc.getLsbD 0 = false ∧ s.cpuState ≠ .exceptionHandling

end Sys2Proof.Machine
end

