-- ==== Sys2Proof/Certificates/Slice0/Obligations.lean ====
section
/-! DEFINITION. The statements for the provers, each with the rules of spec/ it formalises. -/

section

open Sys2Proof Sys2Proof.Machine

/-- O1. Words written out from the code rows decode to the instructions they stand for. Rests on R98 (spec/30_encoding.md),
R54 (spec/20_memory.md). -/
def Obligations.SampleWordsDecode : Prop :=
  decode [0x0C#8, 0x92#8] = .ok (.movBReg 9#4 2#4, []) ∧
  decode [0x6F#8, 0x70#8, 0x00#8, 0x02#8] = .ok (.movWLoadDisp 0x0002#16 7#3 0#3, []) ∧
  decode [0x51#8, 0x81#8] = .ok (.divxu 8#4 1#3, []) ∧
  decode [0x60#8, 0x92#8] = .ok (.bsetRegReg 9#4 2#4, []) ∧
  decode [0x7E#8, 0x02#8, 0x77#8, 0x50#8] = .ok (.bldImmAbs 5#3 0x02#8, []) ∧
  decode [0x67#8, 0xC1#8] = .ok (.bistImmReg 4#3 1#4, []) ∧
  decode [0x5E#8, 0x00#8, 0x04#8, 0x00#8] = .ok (.jsrAbs 0x0400#16, []) ∧
  decode [0x56#8, 0x70#8] = .ok (.rte, []) ∧
  decode [0x7B#8, 0x5C#8, 0x59#8, 0x8F#8] = .ok (.eepmov, [])

/-- O2. Decoding the encoding of any well-formed instruction gives it back. Rests on R98 (spec/30_encoding.md), R100
(spec/30_encoding.md). -/
def Obligations.DecodeOfEncode : Prop :=
  ∀ (i : Instr) (rest : List Byte), i.wf = true → decode (storageBytes (encode i) ++ rest) = .ok (i, rest)

/-- O3. Every word that decodes is the encoding of what it decodes to: no fixed bit is ignored (the spec's decision D5). Rests
on R102 (spec/30_encoding.md), R100 (spec/30_encoding.md), R107 (spec/30_encoding.md), D5 (spec/92_eei_decisions.md). The
model's choices or the spec's own inferences in it: log entries 8 and 12. -/
def Obligations.EncodeOfDecode : Prop :=
  ∀ (b1 b2 b3 b4 : Byte) (i : Instr) (rest : List Byte), decode [b1, b2, b3, b4] = .ok (i, rest) →
    i.wf = true ∧ storageBytes (encode i) ++ rest = [b1, b2, b3, b4]

/-- O4. A step executes the instruction the bytes at the PC decode to. Rests on R19 (spec/00_scope.md), R310
(spec/60_exceptions.md). -/
def Obligations.StepRunsDecodedInstruction : Prop :=
  ∀ (s : State) (i : Instr) (rest : List Byte), Executes s → decode s.codeBytes = .ok (i, rest) →
    (∀ k : Nat, k < i.length.toNat → IsMemory s (evenAddr s.pc + BitVec.ofNat 16 k)) →
    step s = exec i s.consumeTick ∧ s.consumeTick = { s with env := { s.env with ticks := s.env.ticks.tail } }

/-- O5. A step on bytes that are no instruction is refused by name. Rests on R101 (spec/30_encoding.md), R102
(spec/30_encoding.md), D4, D5 (spec/92_eei_decisions.md). The model's choices or the spec's own inferences in it: log entry 8.
-/
def Obligations.UndefinedEncodingRefused : Prop :=
  (∀ (s : State) (e : DecodeError), Executes s → decode s.codeBytes = .error e →
    (∀ k : Nat, k < 4 → IsMemory s (evenAddr s.pc + BitVec.ofNat 16 k)) → step s = .refused .undefinedEncoding) ∧
  ∀ b1 ∈ [0x52#8, 0x53#8, 0x57#8, 0x58#8, 0x5C#8, 0x64#8, 0x65#8, 0x66#8, 0x78#8, 0x7A#8], ∀ rest : List Byte,
    ∃ e, decode (b1 :: rest) = .error e

/-- O6. MOV between registers and of immediate data: result, flags, encoding and frame. Formalises R121
(spec/40_data_transfer.md), R122 (spec/40_data_transfer.md), R123 (spec/40_data_transfer.md), R129 (spec/40_data_transfer.md).
-/
def Obligations.MoveRegisterAndImmediate : Prop :=
  (∀ (s : State) (rs rd : Reg8), Effect (.movBReg rs rd) s (s.pc + 2#16) [(rd, s.r8 rs)] (valueFlags (s.r8 rs)) []) ∧
  (∀ (s : State) (rs rd : Reg16),
    Effect (.movWReg rs rd) s (s.pc + 2#16) (wordReg rd (s.r16 rs)) (valueFlags (s.r16 rs)) []) ∧
  (∀ (s : State) (imm : Byte) (rd : Reg8), Effect (.movBImm imm rd) s (s.pc + 2#16) [(rd, imm)] (valueFlags imm) []) ∧
  (∀ (s : State) (imm : Word) (rd : Reg16), Effect (.movWImm imm rd) s (s.pc + 4#16) (wordReg rd imm) (valueFlags imm) []) ∧
  (∀ (rs : Reg8) (rd : Reg8), encode (.movBReg rs rd) = [joinBytes 0x0C#8 (joinNibbles rs rd)]) ∧
  (∀ (rs : Reg16) (rd : Reg16), encode (.movWReg rs rd) = [joinBytes 0x0D#8 (joinNibbles (nibbleOf false rs) (nibbleOf false rd))]) ∧
  (∀ (imm : Byte) (rd : Reg8), encode (.movBImm imm rd) = [joinBytes (joinNibbles 15#4 rd) imm]) ∧
  (∀ (imm : Word) (rd : Reg16), encode (.movWImm imm rd) = [joinBytes 0x79#8 (joinNibbles 0#4 (nibbleOf false rd)), imm])

/-- O7. MOV.B from on-chip memory by register indirect, displacement and absolute addressing. Rests on R124
(spec/40_data_transfer.md), R125 (spec/40_data_transfer.md), R127 (spec/40_data_transfer.md), R128 (spec/40_data_transfer.md),
R61 (spec/20_memory.md). -/
def Obligations.ByteLoadFromMemory : Prop :=
  ∀ s : State,
    (∀ (rs : Reg16) (rd : Reg8), IsMemory s (s.r16 rs) →
      Effect (.movBLoadInd rs rd) s (s.pc + 2#16) [(rd, s.mem8 (s.r16 rs))] (valueFlags (s.mem8 (s.r16 rs))) []) ∧
    (∀ (disp : Word) (rs : Reg16) (rd : Reg8), IsMemory s (s.r16 rs + disp) →
      Effect (.movBLoadDisp disp rs rd) s (s.pc + 4#16) [(rd, s.mem8 (s.r16 rs + disp))]
        (valueFlags (s.mem8 (s.r16 rs + disp))) []) ∧
    (∀ (rd : Reg8) (abs : Byte), IsMemory s (0xFF#8 ++ abs) →
      Effect (.movBLoadAbs8 rd abs) s (s.pc + 2#16) [(rd, s.mem8 (0xFF#8 ++ abs))] (valueFlags (s.mem8 (0xFF#8 ++ abs))) []) ∧
    (∀ (abs : Word) (rd : Reg8), IsMemory s abs →
      Effect (.movBLoadAbs16 abs rd) s (s.pc + 4#16) [(rd, s.mem8 abs)] (valueFlags (s.mem8 abs)) [])

/-- O8. MOV.B from a peripheral byte, and EEPMOV from or to peripheral bytes: they take what the environment answers and tell
it of each access. Rests on R62 (spec/20_memory.md), R124 (spec/40_data_transfer.md), R125 (spec/40_data_transfer.md), R127
(spec/40_data_transfer.md), R128 (spec/40_data_transfer.md), R126, R145 (spec/40_data_transfer.md), R285
(spec/46_block_transfer.md), R72 (spec/20_memory.md). The model's choices or the spec's own inferences in it: log entries 6,
18 and 21. -/
def Obligations.ByteLoadFromPeripheral : Prop :=
  ∀ (s : State) (b : Byte) (more : List Byte), s.env.periphIn = b :: more →
    (∀ (rs : Reg16) (rd : Reg8), IsPeripheral s (s.r16 rs) → ∃ t, exec (.movBLoadInd rs rd) s = .next t ∧
      Differs (s.heard (s.r16 rs) b more) t (s.pc + 2#16) [(rd, b)] (valueFlags b) []) ∧
    (∀ (rd : Reg8) (abs : Byte), IsPeripheral s (0xFF#8 ++ abs) → ∃ t, exec (.movBLoadAbs8 rd abs) s = .next t ∧
      Differs (s.heard (0xFF#8 ++ abs) b more) t (s.pc + 2#16) [(rd, b)] (valueFlags b) []) ∧
    (∀ (disp : Word) (rs : Reg16) (rd : Reg8), IsPeripheral s (s.r16 rs + disp) → ∃ t, exec (.movBLoadDisp disp rs rd) s = .next t ∧
      Differs (s.heard (s.r16 rs + disp) b more) t (s.pc + 4#16) [(rd, b)] (valueFlags b) []) ∧
    (∀ (abs : Word) (rd : Reg8), IsPeripheral s abs → ∃ t, exec (.movBLoadAbs16 abs rd) s = .next t ∧
      Differs (s.heard abs b more) t (s.pc + 4#16) [(rd, b)] (valueFlags b) []) ∧
    (∀ (rs : Reg16) (rd : Reg8), low3 rd ≠ rs → IsPeripheral s (s.r16 rs) → ∃ t, exec (.movBPostInc rs rd) s = .next t ∧
      Differs (s.heard (s.r16 rs) b more) t (s.pc + 2#16) ((rd, b) :: wordReg rs (s.r16 rs + 1#16)) (valueFlags b) []) ∧
    (∀ (rs : Reg16) (rd : Reg8), low3 rd = rs → IsPeripheral s (s.r16 rs) → ∃ (t : State) (v : Word),
      exec (.movBPostInc rs rd) s = .next t ∧
      Differs (s.heard (s.r16 rs) b more) t (s.pc + 2#16) (wordReg rs v) (valueFlags b) []) ∧
    (∀ (n : Nat) (bs rest : List Byte), n = (s.r8 12#4).toNat → bs.length = n → more = bs ++ rest → IsPeripheral s (s.r16 5#3) →
      IsMemory s (s.r16 6#3) → (∀ k : Nat, k < n → IsPeripheral s (s.r16 5#3 + BitVec.ofNat 16 k) ∧
        ByteStorable s (s.pc + 4#16) (s.r16 6#3 + BitVec.ofNat 16 k)) →
      ∃ t, exec .eepmov s = .next t ∧
        Differs { s with env := { s.env with
            periphIn := rest
            seen := ((List.range n).map (fun j => EnvEvent.read (s.r16 5#3 + BitVec.ofNat 16 j) (bs.getD j 0x00#8))).reverse ++
              .read (s.r16 5#3) b :: s.env.seen } } t (s.pc + 4#16)
          ((12#4, 0#8) :: (wordReg 5#3 (s.r16 5#3 + BitVec.ofNat 16 n) ++ wordReg 6#3 (s.r16 6#3 + BitVec.ofNat 16 n))) []
          ((List.range n).map (fun j => (s.r16 6#3 + BitVec.ofNat 16 j, bs.getD j 0x00#8)))) ∧
    (∀ n : Nat, n = (s.r8 12#4).toNat → IsMemory s (s.r16 5#3) → IsPeripheral s (s.r16 6#3) →
      (∀ k : Nat, k < n → IsMemory s (s.r16 5#3 + BitVec.ofNat 16 k) ∧ IsPeripheral s (s.r16 6#3 + BitVec.ofNat 16 k) ∧
        NotImminent (s.pc + 4#16) (s.r16 6#3 + BitVec.ofNat 16 k)) →
      ∃ t, exec .eepmov s = .next t ∧
        Differs { s with env := { s.env with
            periphIn := more
            seen := ((List.range n).map (fun j => EnvEvent.write (s.r16 6#3 + BitVec.ofNat 16 j)
              (s.mem8 (s.r16 5#3 + BitVec.ofNat 16 j)))).reverse ++ .read (s.r16 6#3) b :: s.env.seen } } t (s.pc + 4#16)
          ((12#4, 0#8) :: (wordReg 5#3 (s.r16 5#3 + BitVec.ofNat 16 n) ++ wordReg 6#3 (s.r16 6#3 + BitVec.ofNat 16 n))) [] [])

/-- O9. MOV.W from memory reads the word at the even address, whatever bit 0 of the address is. Rests on R130
(spec/40_data_transfer.md), R136 (spec/40_data_transfer.md), R138 (spec/40_data_transfer.md), R55 (spec/20_memory.md), R53
(spec/20_memory.md). The model's choices or the spec's own inferences in it: log entry 23. -/
def Obligations.WordLoadFromMemory : Prop :=
  ∀ s : State,
    (∀ (rs rd : Reg16), WordReadable s (s.r16 rs) →
      Effect (.movWLoadInd rs rd) s (s.pc + 2#16) (wordReg rd (s.mem16 (s.r16 rs))) (valueFlags (s.mem16 (s.r16 rs))) []) ∧
    (∀ (disp : Word) (rs rd : Reg16), WordReadable s (s.r16 rs + disp) →
      Effect (.movWLoadDisp disp rs rd) s (s.pc + 4#16) (wordReg rd (s.mem16 (s.r16 rs + disp)))
        (valueFlags (s.mem16 (s.r16 rs + disp))) []) ∧
    (∀ (abs : Word) (rd : Reg16), WordReadable s abs →
      Effect (.movWLoadAbs16 abs rd) s (s.pc + 4#16) (wordReg rd (s.mem16 abs)) (valueFlags (s.mem16 abs)) [])

/-- O10. Post-increment loads and POP: the datum, the pointer moved by its size, the flags. Rests on R126
(spec/40_data_transfer.md), R137 (spec/40_data_transfer.md), R143 (spec/40_data_transfer.md), R57 (spec/20_memory.md). The
model's choices or the spec's own inferences in it: log entries 11 and 23. -/
def Obligations.PostIncrementLoad : Prop :=
  ∀ s : State,
    (∀ (rs : Reg16) (rd : Reg8), low3 rd ≠ rs → IsMemory s (s.r16 rs) →
      Effect (.movBPostInc rs rd) s (s.pc + 2#16) ((rd, s.mem8 (s.r16 rs)) :: wordReg rs (s.r16 rs + 1#16))
        (valueFlags (s.mem8 (s.r16 rs))) []) ∧
    (∀ (rs rd : Reg16), rd ≠ rs → WordReadable s (s.r16 rs) →
      Effect (.movWPostInc rs rd) s (s.pc + 2#16) (wordReg rd (s.mem16 (s.r16 rs)) ++ wordReg rs (s.r16 rs + 2#16))
        (valueFlags (s.mem16 (s.r16 rs))) []) ∧
    (∀ rn : Reg16, rn ≠ 7#3 → WordReadable s (s.r16 7#3) →
      Effect (.pop rn) s (s.pc + 2#16) (wordReg rn (s.mem16 (s.r16 7#3)) ++ wordReg 7#3 (s.r16 7#3 + 2#16))
        (valueFlags (s.mem16 (s.r16 7#3))) [])

/-- O11. A post-increment load into its own pointer completes; only that register is left open. Rests on R145
(spec/40_data_transfer.md), D14 (spec/92_eei_decisions.md). The model's choices or the spec's own inferences in it: log entry
21. -/
def Obligations.PostIncrementIntoPointer : Prop :=
  ∀ s : State,
    (∀ (rs : Reg16) (rd : Reg8), low3 rd = rs → IsMemory s (s.r16 rs) → ∃ (t : State) (v : Word),
      exec (.movBPostInc rs rd) s = .next t ∧
        Differs s t (s.pc + 2#16) (wordReg rs v) (valueFlags (s.mem8 (s.r16 rs))) []) ∧
    (∀ rs : Reg16, WordReadable s (s.r16 rs) → ∃ (t : State) (v : Word), exec (.movWPostInc rs rs) s = .next t ∧
        Differs s t (s.pc + 2#16) (wordReg rs v) (valueFlags (s.mem16 (s.r16 rs))) []) ∧
    (WordReadable s (s.r16 7#3) → ∃ (t : State) (v : Word), exec (.pop 7#3) s = .next t ∧
        Differs s t (s.pc + 2#16) (wordReg 7#3 v) (valueFlags (s.mem16 (s.r16 7#3))) [])

/-- O12. MOV.B to memory in its five modes stores one byte and sets N, Z, V from it. Rests on R131 (spec/40_data_transfer.md),
R132 (spec/40_data_transfer.md), R133 (spec/40_data_transfer.md), R134 (spec/40_data_transfer.md), R135
(spec/40_data_transfer.md), R70 (spec/20_memory.md). -/
def Obligations.ByteStoreToRam : Prop :=
  ∀ s : State,
    (∀ (rs : Reg8) (rd : Reg16), ByteStorable s (s.pc + 2#16) (s.r16 rd) →
      Effect (.movBStoreInd rs rd) s (s.pc + 2#16) [] (valueFlags (s.r8 rs)) [(s.r16 rd, s.r8 rs)]) ∧
    (∀ (rs : Reg8) (disp : Word) (rd : Reg16), ByteStorable s (s.pc + 4#16) (s.r16 rd + disp) →
      Effect (.movBStoreDisp rs disp rd) s (s.pc + 4#16) [] (valueFlags (s.r8 rs)) [(s.r16 rd + disp, s.r8 rs)]) ∧
    (∀ (rs : Reg8) (abs : Byte), ByteStorable s (s.pc + 2#16) (0xFF#8 ++ abs) →
      Effect (.movBStoreAbs8 rs abs) s (s.pc + 2#16) [] (valueFlags (s.r8 rs)) [(0xFF#8 ++ abs, s.r8 rs)]) ∧
    (∀ (rs : Reg8) (abs : Word), ByteStorable s (s.pc + 4#16) abs →
      Effect (.movBStoreAbs16 rs abs) s (s.pc + 4#16) [] (valueFlags (s.r8 rs)) [(abs, s.r8 rs)]) ∧
    (∀ (rs : Reg8) (rd : Reg16) (v : Byte), ByteStorable s (s.pc + 2#16) (s.r16 rd - 1#16) →
      v = (if low3 rs = rd then (if topBit rs then loByte (s.r16 rd - 1#16) else hiByte (s.r16 rd - 1#16)) else s.r8 rs) →
      Effect (.movBPreDec rs rd) s (s.pc + 2#16) (wordReg rd (s.r16 rd - 1#16)) (valueFlags v) [(s.r16 rd - 1#16, v)])

/-- O13. MOV.W to memory and PUSH store two bytes at the even address, high byte first. Rests on R139
(spec/40_data_transfer.md), R140 (spec/40_data_transfer.md), R141 (spec/40_data_transfer.md), R142 (spec/40_data_transfer.md),
R144 (spec/40_data_transfer.md), R53 (spec/20_memory.md), R55 (spec/20_memory.md), R57 (spec/20_memory.md), R70
(spec/20_memory.md). The model's choices or the spec's own inferences in it: log entries 11 and 23. -/
def Obligations.WordStoreToRam : Prop :=
  ∀ s : State,
    (∀ (rs rd : Reg16), WordStorable s (s.pc + 2#16) (s.r16 rd) →
      Effect (.movWStoreInd rs rd) s (s.pc + 2#16) [] (valueFlags (s.r16 rs)) (wordCells (s.r16 rd) (s.r16 rs))) ∧
    (∀ (rs : Reg16) (disp : Word) (rd : Reg16), WordStorable s (s.pc + 4#16) (s.r16 rd + disp) →
      Effect (.movWStoreDisp rs disp rd) s (s.pc + 4#16) [] (valueFlags (s.r16 rs)) (wordCells (s.r16 rd + disp) (s.r16 rs))) ∧
    (∀ (rs : Reg16) (abs : Word), WordStorable s (s.pc + 4#16) abs →
      Effect (.movWStoreAbs16 rs abs) s (s.pc + 4#16) [] (valueFlags (s.r16 rs)) (wordCells abs (s.r16 rs))) ∧
    (∀ (rs rd : Reg16) (v : Word), WordStorable s (s.pc + 2#16) (s.r16 rd - 2#16) →
      v = (if rs = rd then s.r16 rd - 2#16 else s.r16 rs) →
      Effect (.movWPreDec rs rd) s (s.pc + 2#16) (wordReg rd (s.r16 rd - 2#16)) (valueFlags v) (wordCells (s.r16 rd - 2#16) v)) ∧
    (∀ (rn : Reg16) (v : Word), WordStorable s (s.pc + 2#16) (s.r16 7#3 - 2#16) →
      v = (if rn = 7#3 then s.r16 7#3 - 2#16 else s.r16 rn) →
      Effect (.push rn) s (s.pc + 2#16) (wordReg 7#3 (s.r16 7#3 - 2#16)) (valueFlags v) (wordCells (s.r16 7#3 - 2#16) v))

/-- O14. MOV through @Rn: loads and stores the memory map does not admit, and stores into the imminent instructions, are
refused by name. Rests on R60 (spec/20_memory.md), R70 (spec/20_memory.md), D7, D15, D16 (spec/92_eei_decisions.md). The
model's choices or the spec's own inferences in it: log entries 9 and 10. -/
def Obligations.AccessRefusals : Prop :=
  ∀ s : State,
    (∀ (rs : Reg16) (rd : Reg8), s.kindAt (s.r16 rs) = .unmapped → exec (.movBLoadInd rs rd) s = .refused .unmappedAddress) ∧
    (∀ (rs : Reg8) (rd : Reg16), NotImminent (s.pc + 2#16) (s.r16 rd) → s.kindAt (s.r16 rd) = .onChipMemory false →
      exec (.movBStoreInd rs rd) s = .refused .writeToRom) ∧
    (∀ (rs : Reg8) (rd : Reg16), NotImminent (s.pc + 2#16) (s.r16 rd) → s.kindAt (s.r16 rd) = .unmapped →
      exec (.movBStoreInd rs rd) s = .refused .unmappedAddress) ∧
    (∀ (rs : Reg8) (rd : Reg16), ¬ NotImminent (s.pc + 2#16) (s.r16 rd) →
      exec (.movBStoreInd rs rd) s = .refused .imminentStore) ∧
    (∀ rs rd : Reg16, (∃ b ∈ wordBytes (s.r16 rs), IsPeripheral s b) →
      exec (.movWLoadInd rs rd) s = .refused .wordAccessInPeripheral) ∧
    (∀ rs rd : Reg16, (∀ b ∈ wordBytes (s.r16 rs), ¬ IsPeripheral s b) →
      (∃ b ∈ wordBytes (s.r16 rs), s.kindAt b = .unmapped) → exec (.movWLoadInd rs rd) s = .refused .unmappedAddress) ∧
    (∀ rs rd : Reg16, (∀ b ∈ wordBytes (s.r16 rd), NotImminent (s.pc + 2#16) b) →
      (∃ b ∈ wordBytes (s.r16 rd), IsPeripheral s b) → exec (.movWStoreInd rs rd) s = .refused .wordAccessInPeripheral) ∧
    (∀ rs rd : Reg16, (∀ b ∈ wordBytes (s.r16 rd), NotImminent (s.pc + 2#16) b ∧ ¬ IsPeripheral s b) →
      (∃ b ∈ wordBytes (s.r16 rd), s.kindAt b = .unmapped) → exec (.movWStoreInd rs rd) s = .refused .unmappedAddress) ∧
    (∀ rs rd : Reg16, (∀ b ∈ wordBytes (s.r16 rd), NotImminent (s.pc + 2#16) b) → WordReadable s (s.r16 rd) →
      ¬ WordWritable s (s.r16 rd) → exec (.movWStoreInd rs rd) s = .refused .writeToRom) ∧
    (∀ rs rd : Reg16, (∃ b ∈ wordBytes (s.r16 rd), ¬ NotImminent (s.pc + 2#16) b) →
      exec (.movWStoreInd rs rd) s = .refused .imminentStore)

/-- O15. ADD.B and SUB.B: the result modulo 256 and the five flags from the exact integers. Rests on R151
(spec/41_arithmetic.md), R152 (spec/41_arithmetic.md), R161 (spec/41_arithmetic.md), R15 (spec/00_scope.md). The model's
choices or the spec's own inferences in it: log entry 19. -/
def Obligations.AddAndSubtractBytes : Prop :=
  ∀ (s : State) (rd : Reg8),
    (∀ imm : Byte, Effect (.addBImm imm rd) s (s.pc + 2#16) [(rd, sumOf (s.r8 rd) imm false)]
      ((.z, decide (sumOf (s.r8 rd) imm false = 0#8)) :: sumFlags 4 (s.r8 rd) imm false) []) ∧
    (∀ rs : Reg8, Effect (.addBReg rs rd) s (s.pc + 2#16) [(rd, sumOf (s.r8 rd) (s.r8 rs) false)]
      ((.z, decide (sumOf (s.r8 rd) (s.r8 rs) false = 0#8)) :: sumFlags 4 (s.r8 rd) (s.r8 rs) false) []) ∧
    (∀ rs : Reg8, Effect (.subB rs rd) s (s.pc + 2#16) [(rd, differenceOf (s.r8 rd) (s.r8 rs) false)]
      ((.z, decide (differenceOf (s.r8 rd) (s.r8 rs) false = 0#8)) :: differenceFlags 4 (s.r8 rd) (s.r8 rs) false) [])

/-- O16. ADD.W and SUB.W: the result modulo 65536, H at bit 11, C at bit 15. Rests on R153 (spec/41_arithmetic.md), R162
(spec/41_arithmetic.md), R15 (spec/00_scope.md). The model's choices or the spec's own inferences in it: log entry 19. -/
def Obligations.AddAndSubtractWords : Prop :=
  ∀ (s : State) (rs rd : Reg16),
    Effect (.addW rs rd) s (s.pc + 2#16) (wordReg rd (sumOf (s.r16 rd) (s.r16 rs) false))
      ((.z, decide (sumOf (s.r16 rd) (s.r16 rs) false = 0#16)) :: sumFlags 12 (s.r16 rd) (s.r16 rs) false) [] ∧
    Effect (.subW rs rd) s (s.pc + 2#16) (wordReg rd (differenceOf (s.r16 rd) (s.r16 rs) false))
      ((.z, decide (differenceOf (s.r16 rd) (s.r16 rs) false = 0#16)) ::
        differenceFlags 12 (s.r16 rd) (s.r16 rs) false) []

/-- O17. CMP sets the flags of destination minus source and writes no register. Rests on R158 (spec/41_arithmetic.md), R159
(spec/41_arithmetic.md), R160 (spec/41_arithmetic.md), R15 (spec/00_scope.md). The model's choices or the spec's own
inferences in it: log entry 19. -/
def Obligations.CompareSetsFlagsOnly : Prop :=
  ∀ s : State,
    (∀ (imm : Byte) (rd : Reg8), Effect (.cmpBImm imm rd) s (s.pc + 2#16) []
      ((.z, decide (s.r8 rd = imm)) :: differenceFlags 4 (s.r8 rd) imm false) []) ∧
    (∀ (rs rd : Reg8), Effect (.cmpBReg rs rd) s (s.pc + 2#16) []
      ((.z, decide (s.r8 rd = s.r8 rs)) :: differenceFlags 4 (s.r8 rd) (s.r8 rs) false) []) ∧
    (∀ (rs rd : Reg16), Effect (.cmpW rs rd) s (s.pc + 2#16) []
      ((.z, decide (s.r16 rd = s.r16 rs)) :: differenceFlags 12 (s.r16 rd) (s.r16 rs) false) [])

/-- O18. ADDX and SUBX take the carry in and out; SUBX, and ADDX where ADDX_Z_STICKY, only clear Z. Rests on R155
(spec/41_arithmetic.md), R164 (spec/41_arithmetic.md), D11 (spec/92_eei_decisions.md), C1, C4 (spec/90_conflicts.md). The
model's choices or the spec's own inferences in it: log entries 19, 20 and 28. -/
def Obligations.ExtendedAddAndSubtract : Prop :=
  ∀ (s : State) (rd : Reg8),
    (∀ imm : Byte, Effect (.addxImm imm rd) s (s.pc + 2#16) [(rd, sumOf (s.r8 rd) imm (s.flag .c))]
      ((.z, decide (sumOf (s.r8 rd) imm (s.flag .c) = 0#8) && (!s.chip.addxZSticky || s.flag .z)) ::
        sumFlags 4 (s.r8 rd) imm (s.flag .c)) []) ∧
    (∀ rs : Reg8, Effect (.addxReg rs rd) s (s.pc + 2#16) [(rd, sumOf (s.r8 rd) (s.r8 rs) (s.flag .c))]
      ((.z, decide (sumOf (s.r8 rd) (s.r8 rs) (s.flag .c) = 0#8) && (!s.chip.addxZSticky || s.flag .z)) ::
        sumFlags 4 (s.r8 rd) (s.r8 rs) (s.flag .c)) []) ∧
    (∀ imm : Byte, Effect (.subxImm imm rd) s (s.pc + 2#16) [(rd, differenceOf (s.r8 rd) imm (s.flag .c))]
      ((.z, decide (differenceOf (s.r8 rd) imm (s.flag .c) = 0#8) && s.flag .z) ::
        differenceFlags 4 (s.r8 rd) imm (s.flag .c)) []) ∧
    (∀ rs : Reg8, Effect (.subxReg rs rd) s (s.pc + 2#16) [(rd, differenceOf (s.r8 rd) (s.r8 rs) (s.flag .c))]
      ((.z, decide (differenceOf (s.r8 rd) (s.r8 rs) (s.flag .c) = 0#8) && s.flag .z) ::
        differenceFlags 4 (s.r8 rd) (s.r8 rs) (s.flag .c)) [])

/-- O19. INC and DEC: one more or less, N and Z from the result, V at H'7F and H'80, H and C kept. Formalises R156
(spec/41_arithmetic.md), R157 (spec/41_arithmetic.md). -/
def Obligations.IncrementAndDecrement : Prop :=
  (∀ (s : State) (rd : Reg8), Effect (.inc rd) s (s.pc + 2#16) [(rd, s.r8 rd + 1#8)]
    [(.n, (s.r8 rd + 1#8).msb), (.z, decide (s.r8 rd = 0xFF#8)), (.v, decide (s.r8 rd = 0x7F#8))] []) ∧
  (∀ (s : State) (rd : Reg8), Effect (.dec rd) s (s.pc + 2#16) [(rd, s.r8 rd - 1#8)]
    [(.n, (s.r8 rd - 1#8).msb), (.z, decide (s.r8 rd = 0x01#8)), (.v, decide (s.r8 rd = 0x80#8))] []) ∧
  (∀ (rd : Reg8), encode (.inc rd) = [joinBytes 0x0A#8 (joinNibbles 0#4 rd)]) ∧
  (∀ (rd : Reg8), encode (.dec rd) = [joinBytes 0x1A#8 (joinNibbles 0#4 rd)])

/-- O20. ADDS and SUBS add or subtract 1 or 2 modulo 65536 and change no flag. Formalises R154 (spec/41_arithmetic.md), R163
(spec/41_arithmetic.md). -/
def Obligations.PointerAdjustment : Prop :=
  (∀ (s : State) (rd : Reg16),
    Effect (.adds1 rd) s (s.pc + 2#16) (wordReg rd (BitVec.ofNat 16 ((s.r16 rd).toNat + 1))) [] [] ∧
    Effect (.adds2 rd) s (s.pc + 2#16) (wordReg rd (BitVec.ofNat 16 ((s.r16 rd).toNat + 2))) [] [] ∧
    Effect (.subs1 rd) s (s.pc + 2#16) (wordReg rd (BitVec.ofInt 16 ((s.r16 rd).toNat - 1))) [] [] ∧
    Effect (.subs2 rd) s (s.pc + 2#16) (wordReg rd (BitVec.ofInt 16 ((s.r16 rd).toNat - 2))) [] []) ∧
  (∀ (rd : Reg16), encode (.adds1 rd) = [joinBytes 0x0B#8 (joinNibbles 0#4 (nibbleOf false rd))]) ∧
  (∀ (rd : Reg16), encode (.adds2 rd) = [joinBytes 0x0B#8 (joinNibbles 8#4 (nibbleOf false rd))]) ∧
  (∀ (rd : Reg16), encode (.subs1 rd) = [joinBytes 0x1B#8 (joinNibbles 0#4 (nibbleOf false rd))]) ∧
  (∀ (rd : Reg16), encode (.subs2 rd) = [joinBytes 0x1B#8 (joinNibbles 8#4 (nibbleOf false rd))])

/-- O21. NEG subtracts the register from zero and sets the five flags. Formalises R165 (spec/41_arithmetic.md). -/
def Obligations.Negate : Prop :=
  (∀ (s : State) (rd : Reg8), Effect (.neg rd) s (s.pc + 2#16) [(rd, 0#8 - s.r8 rd)]
    [(.h, decide ((s.r8 rd).toNat % 16 ≠ 0)), (.n, (0#8 - s.r8 rd).msb), (.z, decide (0#8 - s.r8 rd = 0#8)),
      (.v, decide (s.r8 rd = 0x80#8)), (.c, decide (s.r8 rd ≠ 0x00#8))] []) ∧
  (∀ (rd : Reg8), encode (.neg rd) = [joinBytes 0x17#8 (joinNibbles 8#4 rd)])

/-- O22. MULXU: the exact unsigned product of RdL and Rs, no flag changed. Formalises R172 (spec/41_arithmetic.md). -/
def Obligations.Multiply : Prop :=
  (∀ (s : State) (rs : Reg8) (rd : Reg16), ∃ p : Word,
    p.toNat = (s.r8 (nibbleOf true rd)).toNat * (s.r8 rs).toNat ∧
      Effect (.mulxu rs rd) s (s.pc + 2#16) (wordReg rd p) [] []) ∧
  (∀ (rs : Reg8) (rd : Reg16), encode (.mulxu rs rd) = [joinBytes 0x50#8 (joinNibbles rs (nibbleOf false rd))])

/-- O23. DIVXU without overflow: quotient and remainder satisfy the division identity. Rests on R173 (spec/41_arithmetic.md). -/
def Obligations.DivideExactly : Prop :=
  ∀ (s : State) (rs : Reg8) (rd : Reg16), s.r8 rs ≠ 0#8 → (hiByte (s.r16 rd)).toNat < (s.r8 rs).toNat →
    ∃ m q : Byte, (s.r16 rd).toNat = q.toNat * (s.r8 rs).toNat + m.toNat ∧ m.toNat < (s.r8 rs).toNat ∧
      Effect (.divxu rs rd) s (s.pc + 2#16) [(nibbleOf false rd, m), (nibbleOf true rd, q)]
        [(.n, (s.r8 rs).msb), (.z, false)] []

/-- O24. DIVXU by zero or with overflow completes; only Rd and the flags named are left open. Rests on R173
(spec/41_arithmetic.md), D12 (spec/92_eei_decisions.md). The model's choices or the spec's own inferences in it: log entry 21.
-/
def Obligations.DivideNotAssured : Prop :=
  ∀ (s : State) (rs : Reg8) (rd : Reg16),
    (s.r8 rs = 0#8 → ∃ (v : Word) (n : Bool),
      Effect (.divxu rs rd) s (s.pc + 2#16) (wordReg rd v) [(.n, n), (.z, true)] []) ∧
    (s.r8 rs ≠ 0#8 → (s.r8 rs).toNat ≤ (hiByte (s.r16 rd)).toNat → ∃ (v : Word) (n z : Bool),
      Effect (.divxu rs rd) s (s.pc + 2#16) (wordReg rd v) [(.n, n), (.z, z)] [])

/-- O25. DAA and DAS add the table's constant; N, Z and C follow, H and V are open. Rests on R168 (spec/41_arithmetic.md),
R169 (spec/41_arithmetic.md), R14 (spec/00_scope.md). The model's choices or the spec's own inferences in it: log entry 21. -/
def Obligations.DecimalAdjustOnTable : Prop :=
  (∀ row ∈ ([(false, 0, 9, false, 0, 9, 0x00#8, false), (false, 0, 8, false, 10, 15, 0x06#8, false),
      (false, 0, 9, true, 0, 3, 0x06#8, false), (false, 10, 15, false, 0, 9, 0x60#8, true),
      (false, 9, 15, false, 10, 15, 0x66#8, true), (false, 10, 15, true, 0, 3, 0x66#8, true),
      (true, 0, 2, false, 0, 9, 0x60#8, true), (true, 0, 2, false, 10, 15, 0x66#8, true),
      (true, 0, 3, true, 0, 3, 0x66#8, true)] : List (Bool × Nat × Nat × Bool × Nat × Nat × Byte × Bool)),
    ∀ (s : State) (rd : Reg8), AdjustCase s rd row → ∃ h v : Bool,
      Effect (.daa rd) s (s.pc + 2#16) [(rd, s.r8 rd + row.2.2.2.2.2.2.1)]
        [(.n, (s.r8 rd + row.2.2.2.2.2.2.1).msb), (.z, decide (s.r8 rd + row.2.2.2.2.2.2.1 = 0#8)),
          (.c, row.2.2.2.2.2.2.2), (.h, h), (.v, v)] []) ∧
  (∀ row ∈ ([(false, 0, 9, false, 0, 9, 0x00#8, false), (false, 0, 8, true, 6, 15, 0xFA#8, false),
      (true, 7, 15, false, 0, 9, 0xA0#8, true), (true, 6, 15, true, 6, 15, 0x9A#8, true)] :
      List (Bool × Nat × Nat × Bool × Nat × Nat × Byte × Bool)),
    ∀ (s : State) (rd : Reg8), AdjustCase s rd row → ∃ h v : Bool,
      Effect (.das rd) s (s.pc + 2#16) [(rd, s.r8 rd + row.2.2.2.2.2.2.1)]
        [(.n, (s.r8 rd + row.2.2.2.2.2.2.1).msb), (.z, decide (s.r8 rd + row.2.2.2.2.2.2.1 = 0#8)),
          (.c, row.2.2.2.2.2.2.2), (.h, h), (.v, v)] [])

/-- O26. DAA and DAS complete in every state, inside their tables and outside. Rests on R168 (spec/41_arithmetic.md), R169
(spec/41_arithmetic.md), D13 (spec/92_eei_decisions.md). -/
def Obligations.DecimalAdjustCompletes : Prop :=
  ∀ (s : State) (rd : Reg8),
    (∃ (r : Byte) (h n z v c : Bool),
      Effect (.daa rd) s (s.pc + 2#16) [(rd, r)] [(.h, h), (.n, n), (.z, z), (.v, v), (.c, c)] []) ∧
    (∃ (r : Byte) (h n z v : Bool),
      Effect (.das rd) s (s.pc + 2#16) [(rd, r)] [(.h, h), (.n, n), (.z, z), (.v, v)] [])

/-- O27. ADDX followed by DAA adds packed decimal numbers. Rests on R155 (spec/41_arithmetic.md), R168
(spec/41_arithmetic.md). -/
def Obligations.DecimalAdditionIsExact : Prop :=
  ∀ (s : State) (rd : Reg8) (y : Byte), IsBcd (s.r8 rd) → IsBcd y →
    ∃ t u, exec (.addxImm y rd) s = .next t ∧ exec (.daa rd) t = .next u ∧ IsBcd (u.r8 rd) ∧
      100 * (u.flag .c).toNat + bcdValue (u.r8 rd) = bcdValue (s.r8 rd) + bcdValue y + (s.flag .c).toNat

/-- O28. SUBX followed by DAS subtracts packed decimal numbers. Rests on R164 (spec/41_arithmetic.md), R169
(spec/41_arithmetic.md), C4 (spec/90_conflicts.md). The model's choices or the spec's own inferences in it: log entry 28. -/
def Obligations.DecimalSubtractionIsExact : Prop :=
  ∀ (s : State) (rd : Reg8) (y : Byte), IsBcd (s.r8 rd) → IsBcd y →
    ∃ t u, exec (.subxImm y rd) s = .next t ∧ exec (.das rd) t = .next u ∧ IsBcd (u.r8 rd) ∧
      bcdValue (u.r8 rd) + bcdValue y + (s.flag .c).toNat = bcdValue (s.r8 rd) + 100 * (u.flag .c).toNat

/-- O29. AND, OR, XOR and NOT bit by bit; N and Z from the result, V cleared, C and H kept. Formalises R181
(spec/42_logic_shift.md), R182 (spec/42_logic_shift.md), R183 (spec/42_logic_shift.md), R184 (spec/42_logic_shift.md). -/
def Obligations.LogicOperations : Prop :=
  (∀ (s : State) (rd : Reg8) (imm : Byte) (rs : Reg8), ∃ a b o p x y n : Byte,
    (∀ k : Nat, k < 8 →
      a.getLsbD k = ((s.r8 rd).getLsbD k && imm.getLsbD k) ∧ b.getLsbD k = ((s.r8 rd).getLsbD k && (s.r8 rs).getLsbD k) ∧
      o.getLsbD k = ((s.r8 rd).getLsbD k || imm.getLsbD k) ∧ p.getLsbD k = ((s.r8 rd).getLsbD k || (s.r8 rs).getLsbD k) ∧
      x.getLsbD k = ((s.r8 rd).getLsbD k != imm.getLsbD k) ∧ y.getLsbD k = ((s.r8 rd).getLsbD k != (s.r8 rs).getLsbD k) ∧
      n.getLsbD k = !(s.r8 rd).getLsbD k) ∧
    Effect (.andImm imm rd) s (s.pc + 2#16) [(rd, a)] (valueFlags a) [] ∧
    Effect (.andReg rs rd) s (s.pc + 2#16) [(rd, b)] (valueFlags b) [] ∧
    Effect (.orImm imm rd) s (s.pc + 2#16) [(rd, o)] (valueFlags o) [] ∧
    Effect (.orReg rs rd) s (s.pc + 2#16) [(rd, p)] (valueFlags p) [] ∧
    Effect (.xorImm imm rd) s (s.pc + 2#16) [(rd, x)] (valueFlags x) [] ∧
    Effect (.xorReg rs rd) s (s.pc + 2#16) [(rd, y)] (valueFlags y) [] ∧
    Effect (.notReg rd) s (s.pc + 2#16) [(rd, n)] (valueFlags n) []) ∧
  (∀ (imm : Byte) (rd : Reg8), encode (.andImm imm rd) = [joinBytes (joinNibbles 14#4 rd) imm]) ∧
  (∀ (rs : Reg8) (rd : Reg8), encode (.andReg rs rd) = [joinBytes 0x16#8 (joinNibbles rs rd)]) ∧
  (∀ (imm : Byte) (rd : Reg8), encode (.orImm imm rd) = [joinBytes (joinNibbles 12#4 rd) imm]) ∧
  (∀ (rs : Reg8) (rd : Reg8), encode (.orReg rs rd) = [joinBytes 0x14#8 (joinNibbles rs rd)]) ∧
  (∀ (imm : Byte) (rd : Reg8), encode (.xorImm imm rd) = [joinBytes (joinNibbles 13#4 rd) imm]) ∧
  (∀ (rs : Reg8) (rd : Reg8), encode (.xorReg rs rd) = [joinBytes 0x15#8 (joinNibbles rs rd)]) ∧
  (∀ (rd : Reg8), encode (.notReg rd) = [joinBytes 0x17#8 (joinNibbles 0#4 rd)])

/-- O30. SHAR, SHLL, SHLR, ROTL, ROTR, ROTXL, ROTXR bit by bit; C the bit shifted out, V cleared. Rests on R186
(spec/42_logic_shift.md), R187 (spec/42_logic_shift.md), R188 (spec/42_logic_shift.md), R189 (spec/42_logic_shift.md), R190
(spec/42_logic_shift.md), R191 (spec/42_logic_shift.md), R192 (spec/42_logic_shift.md), C3 (spec/90_conflicts.md). The model's
choices or the spec's own inferences in it: log entry 28. -/
def Obligations.ShiftsAndRotates : Prop :=
  (∀ (s : State) (rd : Reg8),
    (∃ r : Byte, (∀ k : Nat, k < 8 → r.getLsbD k = (if k = 7 then (s.r8 rd).getLsbD 7 else (s.r8 rd).getLsbD (k + 1))) ∧
      Effect (.shar rd) s (s.pc + 2#16) [(rd, r)] ((.c, (s.r8 rd).getLsbD 0) :: valueFlags r) []) ∧
    (∃ r : Byte, (∀ k : Nat, k < 8 → r.getLsbD k = (if k = 0 then false else (s.r8 rd).getLsbD (k - 1))) ∧
      Effect (.shll rd) s (s.pc + 2#16) [(rd, r)] ((.c, (s.r8 rd).getLsbD 7) :: valueFlags r) []) ∧
    (∃ r : Byte, (∀ k : Nat, k < 8 → r.getLsbD k = (if k = 7 then false else (s.r8 rd).getLsbD (k + 1))) ∧
      Effect (.shlr rd) s (s.pc + 2#16) [(rd, r)] ((.c, (s.r8 rd).getLsbD 0) :: valueFlags r) []) ∧
    (∃ r : Byte, (∀ k : Nat, k < 8 → r.getLsbD k = (if k = 0 then (s.r8 rd).getLsbD 7 else (s.r8 rd).getLsbD (k - 1))) ∧
      Effect (.rotl rd) s (s.pc + 2#16) [(rd, r)] ((.c, (s.r8 rd).getLsbD 7) :: valueFlags r) []) ∧
    (∃ r : Byte, (∀ k : Nat, k < 8 → r.getLsbD k = (if k = 7 then (s.r8 rd).getLsbD 0 else (s.r8 rd).getLsbD (k + 1))) ∧
      Effect (.rotr rd) s (s.pc + 2#16) [(rd, r)] ((.c, (s.r8 rd).getLsbD 0) :: valueFlags r) []) ∧
    (∃ r : Byte, (∀ k : Nat, k < 8 → r.getLsbD k = (if k = 0 then s.flag .c else (s.r8 rd).getLsbD (k - 1))) ∧
      Effect (.rotxl rd) s (s.pc + 2#16) [(rd, r)] ((.c, (s.r8 rd).getLsbD 7) :: valueFlags r) []) ∧
    (∃ r : Byte, (∀ k : Nat, k < 8 → r.getLsbD k = (if k = 7 then s.flag .c else (s.r8 rd).getLsbD (k + 1))) ∧
      Effect (.rotxr rd) s (s.pc + 2#16) [(rd, r)] ((.c, (s.r8 rd).getLsbD 0) :: valueFlags r) [])) ∧
  (∀ (rd : Reg8), encode (.shar rd) = [joinBytes 0x11#8 (joinNibbles 8#4 rd)]) ∧
  (∀ (rd : Reg8), encode (.shll rd) = [joinBytes 0x10#8 (joinNibbles 0#4 rd)]) ∧
  (∀ (rd : Reg8), encode (.shlr rd) = [joinBytes 0x11#8 (joinNibbles 0#4 rd)]) ∧
  (∀ (rd : Reg8), encode (.rotl rd) = [joinBytes 0x12#8 (joinNibbles 8#4 rd)]) ∧
  (∀ (rd : Reg8), encode (.rotr rd) = [joinBytes 0x13#8 (joinNibbles 8#4 rd)]) ∧
  (∀ (rd : Reg8), encode (.rotxl rd) = [joinBytes 0x12#8 (joinNibbles 0#4 rd)]) ∧
  (∀ (rd : Reg8), encode (.rotxr rd) = [joinBytes 0x13#8 (joinNibbles 0#4 rd)])

/-- O31. SHAL doubles the register; V says that the doubled signed value does not fit. Rests on R185 (spec/42_logic_shift.md),
R15 (spec/00_scope.md), D18 (spec/92_eei_decisions.md). The model's choices or the spec's own inferences in it: log entry 19.
-/
def Obligations.ArithmeticShiftLeft : Prop :=
  ∀ (s : State) (rd : Reg8), Effect (.shal rd) s (s.pc + 2#16) [(rd, BitVec.ofNat 8 (2 * (s.r8 rd).toNat))]
    [(.n, (BitVec.ofNat 8 (2 * (s.r8 rd).toNat)).msb), (.z, decide (BitVec.ofNat 8 (2 * (s.r8 rd).toNat) = 0#8)),
      (.v, signedOverflow 8 (2 * (s.r8 rd).toInt)), (.c, decide (128 ≤ (s.r8 rd).toNat))] []

/-- O32. BSET, BCLR, BNOT, BST, BIST on a register change the one bit and no flag. Rests on R200
(spec/43_bit_manipulation.md), R201 (spec/43_bit_manipulation.md), R202 (spec/43_bit_manipulation.md), R203
(spec/43_bit_manipulation.md), R213 (spec/43_bit_manipulation.md), R214 (spec/43_bit_manipulation.md), R96
(spec/30_encoding.md). -/
def Obligations.BitModifyRegister : Prop :=
  ∀ s : State,
    (∀ (imm : Imm3) (rd : Reg8), ∃ r : Byte, WithBit (s.r8 rd) imm (true) r ∧
      Effect (.bsetImmReg imm rd) s (s.pc + 2#16) [(rd, r)] [] []) ∧
    (∀ (rn : Reg8) (rd : Reg8), ∃ r : Byte, WithBit (s.r8 rd) (BitVec.ofNat 3 (s.r8 rn).toNat) (true) r ∧
      Effect (.bsetRegReg rn rd) s (s.pc + 2#16) [(rd, r)] [] []) ∧
    (∀ (imm : Imm3) (rd : Reg8), ∃ r : Byte, WithBit (s.r8 rd) imm (false) r ∧
      Effect (.bclrImmReg imm rd) s (s.pc + 2#16) [(rd, r)] [] []) ∧
    (∀ (rn : Reg8) (rd : Reg8), ∃ r : Byte, WithBit (s.r8 rd) (BitVec.ofNat 3 (s.r8 rn).toNat) (false) r ∧
      Effect (.bclrRegReg rn rd) s (s.pc + 2#16) [(rd, r)] [] []) ∧
    (∀ (imm : Imm3) (rd : Reg8), ∃ r : Byte, WithBit (s.r8 rd) imm (!(s.r8 rd).getLsbD (imm : Imm3).toNat) r ∧
      Effect (.bnotImmReg imm rd) s (s.pc + 2#16) [(rd, r)] [] []) ∧
    (∀ (rn : Reg8) (rd : Reg8), ∃ r : Byte, WithBit (s.r8 rd) (BitVec.ofNat 3 (s.r8 rn).toNat) (!(s.r8 rd).getLsbD ((BitVec.ofNat 3 (s.r8 rn).toNat) : Imm3).toNat) r ∧
      Effect (.bnotRegReg rn rd) s (s.pc + 2#16) [(rd, r)] [] []) ∧
    (∀ (imm : Imm3) (rd : Reg8), ∃ r : Byte, WithBit (s.r8 rd) imm (s.flag .c) r ∧
      Effect (.bstImmReg imm rd) s (s.pc + 2#16) [(rd, r)] [] []) ∧
    (∀ (imm : Imm3) (rd : Reg8), ∃ r : Byte, WithBit (s.r8 rd) imm (!s.flag .c) r ∧
      Effect (.bistImmReg imm rd) s (s.pc + 2#16) [(rd, r)] [] [])

/-- O33. BSET, BCLR, BNOT, BST, BIST on a byte of RAM write back the byte with one bit changed. Rests on R200
(spec/43_bit_manipulation.md), R201 (spec/43_bit_manipulation.md), R202 (spec/43_bit_manipulation.md), R203
(spec/43_bit_manipulation.md), R213 (spec/43_bit_manipulation.md), R214 (spec/43_bit_manipulation.md), R59
(spec/20_memory.md). -/
def Obligations.BitModifyMemory : Prop :=
  ∀ s : State,
    (∀ (imm : Imm3) (rd : Reg16), ByteStorable s (s.pc + 4#16) (s.r16 rd) → ∃ r : Byte, WithBit (s.mem8 (s.r16 rd)) imm (true) r ∧
      Effect (.bsetImmInd imm rd) s (s.pc + 4#16) [] [] [(s.r16 rd, r)]) ∧
    (∀ (imm : Imm3) (abs : Byte), ByteStorable s (s.pc + 4#16) (0xFF#8 ++ abs) → ∃ r : Byte, WithBit (s.mem8 (0xFF#8 ++ abs)) imm (true) r ∧
      Effect (.bsetImmAbs imm abs) s (s.pc + 4#16) [] [] [(0xFF#8 ++ abs, r)]) ∧
    (∀ (rn : Reg8) (rd : Reg16), ByteStorable s (s.pc + 4#16) (s.r16 rd) → ∃ r : Byte, WithBit (s.mem8 (s.r16 rd)) (BitVec.ofNat 3 (s.r8 rn).toNat) (true) r ∧
      Effect (.bsetRegInd rn rd) s (s.pc + 4#16) [] [] [(s.r16 rd, r)]) ∧
    (∀ (rn : Reg8) (abs : Byte), ByteStorable s (s.pc + 4#16) (0xFF#8 ++ abs) → ∃ r : Byte, WithBit (s.mem8 (0xFF#8 ++ abs)) (BitVec.ofNat 3 (s.r8 rn).toNat) (true) r ∧
      Effect (.bsetRegAbs rn abs) s (s.pc + 4#16) [] [] [(0xFF#8 ++ abs, r)]) ∧
    (∀ (imm : Imm3) (rd : Reg16), ByteStorable s (s.pc + 4#16) (s.r16 rd) → ∃ r : Byte, WithBit (s.mem8 (s.r16 rd)) imm (false) r ∧
      Effect (.bclrImmInd imm rd) s (s.pc + 4#16) [] [] [(s.r16 rd, r)]) ∧
    (∀ (imm : Imm3) (abs : Byte), ByteStorable s (s.pc + 4#16) (0xFF#8 ++ abs) → ∃ r : Byte, WithBit (s.mem8 (0xFF#8 ++ abs)) imm (false) r ∧
      Effect (.bclrImmAbs imm abs) s (s.pc + 4#16) [] [] [(0xFF#8 ++ abs, r)]) ∧
    (∀ (rn : Reg8) (rd : Reg16), ByteStorable s (s.pc + 4#16) (s.r16 rd) → ∃ r : Byte, WithBit (s.mem8 (s.r16 rd)) (BitVec.ofNat 3 (s.r8 rn).toNat) (false) r ∧
      Effect (.bclrRegInd rn rd) s (s.pc + 4#16) [] [] [(s.r16 rd, r)]) ∧
    (∀ (rn : Reg8) (abs : Byte), ByteStorable s (s.pc + 4#16) (0xFF#8 ++ abs) → ∃ r : Byte, WithBit (s.mem8 (0xFF#8 ++ abs)) (BitVec.ofNat 3 (s.r8 rn).toNat) (false) r ∧
      Effect (.bclrRegAbs rn abs) s (s.pc + 4#16) [] [] [(0xFF#8 ++ abs, r)]) ∧
    (∀ (imm : Imm3) (rd : Reg16), ByteStorable s (s.pc + 4#16) (s.r16 rd) → ∃ r : Byte, WithBit (s.mem8 (s.r16 rd)) imm (!(s.mem8 (s.r16 rd)).getLsbD (imm : Imm3).toNat) r ∧
      Effect (.bnotImmInd imm rd) s (s.pc + 4#16) [] [] [(s.r16 rd, r)]) ∧
    (∀ (imm : Imm3) (abs : Byte), ByteStorable s (s.pc + 4#16) (0xFF#8 ++ abs) → ∃ r : Byte, WithBit (s.mem8 (0xFF#8 ++ abs)) imm (!(s.mem8 (0xFF#8 ++ abs)).getLsbD (imm : Imm3).toNat) r ∧
      Effect (.bnotImmAbs imm abs) s (s.pc + 4#16) [] [] [(0xFF#8 ++ abs, r)]) ∧
    (∀ (rn : Reg8) (rd : Reg16), ByteStorable s (s.pc + 4#16) (s.r16 rd) → ∃ r : Byte, WithBit (s.mem8 (s.r16 rd)) (BitVec.ofNat 3 (s.r8 rn).toNat) (!(s.mem8 (s.r16 rd)).getLsbD ((BitVec.ofNat 3 (s.r8 rn).toNat) : Imm3).toNat) r ∧
      Effect (.bnotRegInd rn rd) s (s.pc + 4#16) [] [] [(s.r16 rd, r)]) ∧
    (∀ (rn : Reg8) (abs : Byte), ByteStorable s (s.pc + 4#16) (0xFF#8 ++ abs) → ∃ r : Byte, WithBit (s.mem8 (0xFF#8 ++ abs)) (BitVec.ofNat 3 (s.r8 rn).toNat) (!(s.mem8 (0xFF#8 ++ abs)).getLsbD ((BitVec.ofNat 3 (s.r8 rn).toNat) : Imm3).toNat) r ∧
      Effect (.bnotRegAbs rn abs) s (s.pc + 4#16) [] [] [(0xFF#8 ++ abs, r)]) ∧
    (∀ (imm : Imm3) (rd : Reg16), ByteStorable s (s.pc + 4#16) (s.r16 rd) → ∃ r : Byte, WithBit (s.mem8 (s.r16 rd)) imm (s.flag .c) r ∧
      Effect (.bstImmInd imm rd) s (s.pc + 4#16) [] [] [(s.r16 rd, r)]) ∧
    (∀ (imm : Imm3) (abs : Byte), ByteStorable s (s.pc + 4#16) (0xFF#8 ++ abs) → ∃ r : Byte, WithBit (s.mem8 (0xFF#8 ++ abs)) imm (s.flag .c) r ∧
      Effect (.bstImmAbs imm abs) s (s.pc + 4#16) [] [] [(0xFF#8 ++ abs, r)]) ∧
    (∀ (imm : Imm3) (rd : Reg16), ByteStorable s (s.pc + 4#16) (s.r16 rd) → ∃ r : Byte, WithBit (s.mem8 (s.r16 rd)) imm (!s.flag .c) r ∧
      Effect (.bistImmInd imm rd) s (s.pc + 4#16) [] [] [(s.r16 rd, r)]) ∧
    (∀ (imm : Imm3) (abs : Byte), ByteStorable s (s.pc + 4#16) (0xFF#8 ++ abs) → ∃ r : Byte, WithBit (s.mem8 (0xFF#8 ++ abs)) imm (!s.flag .c) r ∧
      Effect (.bistImmAbs imm abs) s (s.pc + 4#16) [] [] [(0xFF#8 ++ abs, r)])

/-- O34. The thirty-six bit instructions on memory, on a peripheral register: they act on what the read returned, and write
back that byte with one bit changed. Rests on R62, R59 (spec/20_memory.md), R200, R201, R202, R203
(spec/43_bit_manipulation.md), R204, R205, R206, R207, R208, R209, R210, R211, R212 (spec/43_bit_manipulation.md), R213, R214,
R215 (spec/43_bit_manipulation.md), C5 (spec/90_conflicts.md). The model's choices or the spec's own inferences in it: log
entries 6 and 28. -/
def Obligations.BitModifyPeripheral : Prop :=
  ∀ (s : State) (b : Byte) (more : List Byte), s.env.periphIn = b :: more →
    (∀ (imm : Imm3) (rd : Reg16), IsPeripheral s (s.r16 rd) → NotImminent (s.pc + 4#16) (s.r16 rd) →
      PeripheralBitModify (.bsetImmInd imm rd) s (s.r16 rd) b more imm (true)) ∧
    (∀ (imm : Imm3) (abs : Byte), IsPeripheral s (0xFF#8 ++ abs) → NotImminent (s.pc + 4#16) (0xFF#8 ++ abs) →
      PeripheralBitModify (.bsetImmAbs imm abs) s (0xFF#8 ++ abs) b more imm (true)) ∧
    (∀ (rn : Reg8) (rd : Reg16), IsPeripheral s (s.r16 rd) → NotImminent (s.pc + 4#16) (s.r16 rd) →
      PeripheralBitModify (.bsetRegInd rn rd) s (s.r16 rd) b more (BitVec.ofNat 3 (s.r8 rn).toNat) (true)) ∧
    (∀ (rn : Reg8) (abs : Byte), IsPeripheral s (0xFF#8 ++ abs) → NotImminent (s.pc + 4#16) (0xFF#8 ++ abs) →
      PeripheralBitModify (.bsetRegAbs rn abs) s (0xFF#8 ++ abs) b more (BitVec.ofNat 3 (s.r8 rn).toNat) (true)) ∧
    (∀ (imm : Imm3) (rd : Reg16), IsPeripheral s (s.r16 rd) → NotImminent (s.pc + 4#16) (s.r16 rd) →
      PeripheralBitModify (.bclrImmInd imm rd) s (s.r16 rd) b more imm (false)) ∧
    (∀ (imm : Imm3) (abs : Byte), IsPeripheral s (0xFF#8 ++ abs) → NotImminent (s.pc + 4#16) (0xFF#8 ++ abs) →
      PeripheralBitModify (.bclrImmAbs imm abs) s (0xFF#8 ++ abs) b more imm (false)) ∧
    (∀ (rn : Reg8) (rd : Reg16), IsPeripheral s (s.r16 rd) → NotImminent (s.pc + 4#16) (s.r16 rd) →
      PeripheralBitModify (.bclrRegInd rn rd) s (s.r16 rd) b more (BitVec.ofNat 3 (s.r8 rn).toNat) (false)) ∧
    (∀ (rn : Reg8) (abs : Byte), IsPeripheral s (0xFF#8 ++ abs) → NotImminent (s.pc + 4#16) (0xFF#8 ++ abs) →
      PeripheralBitModify (.bclrRegAbs rn abs) s (0xFF#8 ++ abs) b more (BitVec.ofNat 3 (s.r8 rn).toNat) (false)) ∧
    (∀ (imm : Imm3) (rd : Reg16), IsPeripheral s (s.r16 rd) → NotImminent (s.pc + 4#16) (s.r16 rd) →
      PeripheralBitModify (.bnotImmInd imm rd) s (s.r16 rd) b more imm (!b.getLsbD (imm : Imm3).toNat)) ∧
    (∀ (imm : Imm3) (abs : Byte), IsPeripheral s (0xFF#8 ++ abs) → NotImminent (s.pc + 4#16) (0xFF#8 ++ abs) →
      PeripheralBitModify (.bnotImmAbs imm abs) s (0xFF#8 ++ abs) b more imm (!b.getLsbD (imm : Imm3).toNat)) ∧
    (∀ (rn : Reg8) (rd : Reg16), IsPeripheral s (s.r16 rd) → NotImminent (s.pc + 4#16) (s.r16 rd) →
      PeripheralBitModify (.bnotRegInd rn rd) s (s.r16 rd) b more (BitVec.ofNat 3 (s.r8 rn).toNat) (!b.getLsbD ((BitVec.ofNat 3 (s.r8 rn).toNat) : Imm3).toNat)) ∧
    (∀ (rn : Reg8) (abs : Byte), IsPeripheral s (0xFF#8 ++ abs) → NotImminent (s.pc + 4#16) (0xFF#8 ++ abs) →
      PeripheralBitModify (.bnotRegAbs rn abs) s (0xFF#8 ++ abs) b more (BitVec.ofNat 3 (s.r8 rn).toNat) (!b.getLsbD ((BitVec.ofNat 3 (s.r8 rn).toNat) : Imm3).toNat)) ∧
    (∀ (imm : Imm3) (rd : Reg16), IsPeripheral s (s.r16 rd) → NotImminent (s.pc + 4#16) (s.r16 rd) →
      PeripheralBitModify (.bstImmInd imm rd) s (s.r16 rd) b more imm (s.flag .c)) ∧
    (∀ (imm : Imm3) (abs : Byte), IsPeripheral s (0xFF#8 ++ abs) → NotImminent (s.pc + 4#16) (0xFF#8 ++ abs) →
      PeripheralBitModify (.bstImmAbs imm abs) s (0xFF#8 ++ abs) b more imm (s.flag .c)) ∧
    (∀ (imm : Imm3) (rd : Reg16), IsPeripheral s (s.r16 rd) → NotImminent (s.pc + 4#16) (s.r16 rd) →
      PeripheralBitModify (.bistImmInd imm rd) s (s.r16 rd) b more imm (!s.flag .c)) ∧
    (∀ (imm : Imm3) (abs : Byte), IsPeripheral s (0xFF#8 ++ abs) → NotImminent (s.pc + 4#16) (0xFF#8 ++ abs) →
      PeripheralBitModify (.bistImmAbs imm abs) s (0xFF#8 ++ abs) b more imm (!s.flag .c)) ∧
    (∀ (imm : Imm3) (rd : Reg16), IsPeripheral s (s.r16 rd) →
      PeripheralBitTest (.btstImmInd imm rd) s (s.r16 rd) b more (.z, !(b.getLsbD imm.toNat))) ∧
    (∀ (imm : Imm3) (abs : Byte), IsPeripheral s (0xFF#8 ++ abs) →
      PeripheralBitTest (.btstImmAbs imm abs) s (0xFF#8 ++ abs) b more (.z, !(b.getLsbD imm.toNat))) ∧
    (∀ (rn : Reg8) (rd : Reg16), IsPeripheral s (s.r16 rd) →
      PeripheralBitTest (.btstRegInd rn rd) s (s.r16 rd) b more (.z, !(b.getLsbD ((s.r8 rn).toNat % 8)))) ∧
    (∀ (rn : Reg8) (abs : Byte), IsPeripheral s (0xFF#8 ++ abs) →
      PeripheralBitTest (.btstRegAbs rn abs) s (0xFF#8 ++ abs) b more (.z, !(b.getLsbD ((s.r8 rn).toNat % 8)))) ∧
    (∀ (imm : Imm3) (rd : Reg16), IsPeripheral s (s.r16 rd) →
      PeripheralBitTest (.bandImmInd imm rd) s (s.r16 rd) b more (.c, s.flag .c && (b.getLsbD imm.toNat))) ∧
    (∀ (imm : Imm3) (abs : Byte), IsPeripheral s (0xFF#8 ++ abs) →
      PeripheralBitTest (.bandImmAbs imm abs) s (0xFF#8 ++ abs) b more (.c, s.flag .c && (b.getLsbD imm.toNat))) ∧
    (∀ (imm : Imm3) (rd : Reg16), IsPeripheral s (s.r16 rd) →
      PeripheralBitTest (.biandImmInd imm rd) s (s.r16 rd) b more (.c, s.flag .c && !(b.getLsbD imm.toNat))) ∧
    (∀ (imm : Imm3) (abs : Byte), IsPeripheral s (0xFF#8 ++ abs) →
      PeripheralBitTest (.biandImmAbs imm abs) s (0xFF#8 ++ abs) b more (.c, s.flag .c && !(b.getLsbD imm.toNat))) ∧
    (∀ (imm : Imm3) (rd : Reg16), IsPeripheral s (s.r16 rd) →
      PeripheralBitTest (.borImmInd imm rd) s (s.r16 rd) b more (.c, s.flag .c || (b.getLsbD imm.toNat))) ∧
    (∀ (imm : Imm3) (abs : Byte), IsPeripheral s (0xFF#8 ++ abs) →
      PeripheralBitTest (.borImmAbs imm abs) s (0xFF#8 ++ abs) b more (.c, s.flag .c || (b.getLsbD imm.toNat))) ∧
    (∀ (imm : Imm3) (rd : Reg16), IsPeripheral s (s.r16 rd) →
      PeripheralBitTest (.biorImmInd imm rd) s (s.r16 rd) b more (.c, s.flag .c || !(b.getLsbD imm.toNat))) ∧
    (∀ (imm : Imm3) (abs : Byte), IsPeripheral s (0xFF#8 ++ abs) →
      PeripheralBitTest (.biorImmAbs imm abs) s (0xFF#8 ++ abs) b more (.c, s.flag .c || !(b.getLsbD imm.toNat))) ∧
    (∀ (imm : Imm3) (rd : Reg16), IsPeripheral s (s.r16 rd) →
      PeripheralBitTest (.bxorImmInd imm rd) s (s.r16 rd) b more (.c, xor (s.flag .c) (b.getLsbD imm.toNat))) ∧
    (∀ (imm : Imm3) (abs : Byte), IsPeripheral s (0xFF#8 ++ abs) →
      PeripheralBitTest (.bxorImmAbs imm abs) s (0xFF#8 ++ abs) b more (.c, xor (s.flag .c) (b.getLsbD imm.toNat))) ∧
    (∀ (imm : Imm3) (rd : Reg16), IsPeripheral s (s.r16 rd) →
      PeripheralBitTest (.bixorImmInd imm rd) s (s.r16 rd) b more (.c, xor (s.flag .c) (!(b.getLsbD imm.toNat)))) ∧
    (∀ (imm : Imm3) (abs : Byte), IsPeripheral s (0xFF#8 ++ abs) →
      PeripheralBitTest (.bixorImmAbs imm abs) s (0xFF#8 ++ abs) b more (.c, xor (s.flag .c) (!(b.getLsbD imm.toNat)))) ∧
    (∀ (imm : Imm3) (rd : Reg16), IsPeripheral s (s.r16 rd) →
      PeripheralBitTest (.bldImmInd imm rd) s (s.r16 rd) b more (.c, (b.getLsbD imm.toNat))) ∧
    (∀ (imm : Imm3) (abs : Byte), IsPeripheral s (0xFF#8 ++ abs) →
      PeripheralBitTest (.bldImmAbs imm abs) s (0xFF#8 ++ abs) b more (.c, (b.getLsbD imm.toNat))) ∧
    (∀ (imm : Imm3) (rd : Reg16), IsPeripheral s (s.r16 rd) →
      PeripheralBitTest (.bildImmInd imm rd) s (s.r16 rd) b more (.c, !(b.getLsbD imm.toNat))) ∧
    (∀ (imm : Imm3) (abs : Byte), IsPeripheral s (0xFF#8 ++ abs) →
      PeripheralBitTest (.bildImmAbs imm abs) s (0xFF#8 ++ abs) b more (.c, !(b.getLsbD imm.toNat)))

/-- O35. BTST and the bit operations on the carry flag, register forms. Rests on R200 (spec/43_bit_manipulation.md), R204
(spec/43_bit_manipulation.md), R205 (spec/43_bit_manipulation.md), R206 (spec/43_bit_manipulation.md), R207
(spec/43_bit_manipulation.md), R208 (spec/43_bit_manipulation.md), R209 (spec/43_bit_manipulation.md), R210
(spec/43_bit_manipulation.md), R211 (spec/43_bit_manipulation.md), R212 (spec/43_bit_manipulation.md), C5
(spec/90_conflicts.md). The model's choices or the spec's own inferences in it: log entry 28. -/
def Obligations.BitTestRegister : Prop :=
  ∀ s : State,
    (∀ (imm : Imm3) (rd : Reg8), Effect (.btstImmReg imm rd) s (s.pc + 2#16) [] [(.z, !(s.r8 rd).getLsbD imm.toNat)] []) ∧
    (∀ (rn : Reg8) (rd : Reg8), Effect (.btstRegReg rn rd) s (s.pc + 2#16) [] [(.z, !(s.r8 rd).getLsbD ((s.r8 rn).toNat % 8))] []) ∧
    (∀ (imm : Imm3) (rd : Reg8), Effect (.bandImmReg imm rd) s (s.pc + 2#16) [] [(.c, s.flag .c && (s.r8 rd).getLsbD imm.toNat)] []) ∧
    (∀ (imm : Imm3) (rd : Reg8), Effect (.biandImmReg imm rd) s (s.pc + 2#16) [] [(.c, s.flag .c && !(s.r8 rd).getLsbD imm.toNat)] []) ∧
    (∀ (imm : Imm3) (rd : Reg8), Effect (.borImmReg imm rd) s (s.pc + 2#16) [] [(.c, s.flag .c || (s.r8 rd).getLsbD imm.toNat)] []) ∧
    (∀ (imm : Imm3) (rd : Reg8), Effect (.biorImmReg imm rd) s (s.pc + 2#16) [] [(.c, s.flag .c || !(s.r8 rd).getLsbD imm.toNat)] []) ∧
    (∀ (imm : Imm3) (rd : Reg8), Effect (.bxorImmReg imm rd) s (s.pc + 2#16) [] [(.c, xor (s.flag .c) ((s.r8 rd).getLsbD imm.toNat))] []) ∧
    (∀ (imm : Imm3) (rd : Reg8), Effect (.bixorImmReg imm rd) s (s.pc + 2#16) [] [(.c, xor (s.flag .c) (!((s.r8 rd).getLsbD imm.toNat)))] []) ∧
    (∀ (imm : Imm3) (rd : Reg8), Effect (.bldImmReg imm rd) s (s.pc + 2#16) [] [(.c, (s.r8 rd).getLsbD imm.toNat)] []) ∧
    (∀ (imm : Imm3) (rd : Reg8), Effect (.bildImmReg imm rd) s (s.pc + 2#16) [] [(.c, !(s.r8 rd).getLsbD imm.toNat)] [])

/-- O36. BTST and the bit operations on the carry flag, memory forms. Rests on R200 (spec/43_bit_manipulation.md), R204
(spec/43_bit_manipulation.md), R205 (spec/43_bit_manipulation.md), R206 (spec/43_bit_manipulation.md), R207
(spec/43_bit_manipulation.md), R208 (spec/43_bit_manipulation.md), R209 (spec/43_bit_manipulation.md), R210
(spec/43_bit_manipulation.md), R211 (spec/43_bit_manipulation.md), R212 (spec/43_bit_manipulation.md), C5
(spec/90_conflicts.md). The model's choices or the spec's own inferences in it: log entry 28. -/
def Obligations.BitTestMemory : Prop :=
  ∀ s : State,
    (∀ (imm : Imm3) (rd : Reg16), IsMemory s (s.r16 rd) →
      Effect (.btstImmInd imm rd) s (s.pc + 4#16) [] [(.z, !((s.mem8 (s.r16 rd)).getLsbD imm.toNat))] []) ∧
    (∀ (imm : Imm3) (abs : Byte), IsMemory s (0xFF#8 ++ abs) →
      Effect (.btstImmAbs imm abs) s (s.pc + 4#16) [] [(.z, !((s.mem8 (0xFF#8 ++ abs)).getLsbD imm.toNat))] []) ∧
    (∀ (rn : Reg8) (rd : Reg16), IsMemory s (s.r16 rd) →
      Effect (.btstRegInd rn rd) s (s.pc + 4#16) [] [(.z, !((s.mem8 (s.r16 rd)).getLsbD ((s.r8 rn).toNat % 8)))] []) ∧
    (∀ (rn : Reg8) (abs : Byte), IsMemory s (0xFF#8 ++ abs) →
      Effect (.btstRegAbs rn abs) s (s.pc + 4#16) [] [(.z, !((s.mem8 (0xFF#8 ++ abs)).getLsbD ((s.r8 rn).toNat % 8)))] []) ∧
    (∀ (imm : Imm3) (rd : Reg16), IsMemory s (s.r16 rd) →
      Effect (.bandImmInd imm rd) s (s.pc + 4#16) [] [(.c, s.flag .c && ((s.mem8 (s.r16 rd)).getLsbD imm.toNat))] []) ∧
    (∀ (imm : Imm3) (abs : Byte), IsMemory s (0xFF#8 ++ abs) →
      Effect (.bandImmAbs imm abs) s (s.pc + 4#16) [] [(.c, s.flag .c && ((s.mem8 (0xFF#8 ++ abs)).getLsbD imm.toNat))] []) ∧
    (∀ (imm : Imm3) (rd : Reg16), IsMemory s (s.r16 rd) →
      Effect (.biandImmInd imm rd) s (s.pc + 4#16) [] [(.c, s.flag .c && !((s.mem8 (s.r16 rd)).getLsbD imm.toNat))] []) ∧
    (∀ (imm : Imm3) (abs : Byte), IsMemory s (0xFF#8 ++ abs) →
      Effect (.biandImmAbs imm abs) s (s.pc + 4#16) [] [(.c, s.flag .c && !((s.mem8 (0xFF#8 ++ abs)).getLsbD imm.toNat))] []) ∧
    (∀ (imm : Imm3) (rd : Reg16), IsMemory s (s.r16 rd) →
      Effect (.borImmInd imm rd) s (s.pc + 4#16) [] [(.c, s.flag .c || ((s.mem8 (s.r16 rd)).getLsbD imm.toNat))] []) ∧
    (∀ (imm : Imm3) (abs : Byte), IsMemory s (0xFF#8 ++ abs) →
      Effect (.borImmAbs imm abs) s (s.pc + 4#16) [] [(.c, s.flag .c || ((s.mem8 (0xFF#8 ++ abs)).getLsbD imm.toNat))] []) ∧
    (∀ (imm : Imm3) (rd : Reg16), IsMemory s (s.r16 rd) →
      Effect (.biorImmInd imm rd) s (s.pc + 4#16) [] [(.c, s.flag .c || !((s.mem8 (s.r16 rd)).getLsbD imm.toNat))] []) ∧
    (∀ (imm : Imm3) (abs : Byte), IsMemory s (0xFF#8 ++ abs) →
      Effect (.biorImmAbs imm abs) s (s.pc + 4#16) [] [(.c, s.flag .c || !((s.mem8 (0xFF#8 ++ abs)).getLsbD imm.toNat))] []) ∧
    (∀ (imm : Imm3) (rd : Reg16), IsMemory s (s.r16 rd) →
      Effect (.bxorImmInd imm rd) s (s.pc + 4#16) [] [(.c, xor (s.flag .c) ((s.mem8 (s.r16 rd)).getLsbD imm.toNat))] []) ∧
    (∀ (imm : Imm3) (abs : Byte), IsMemory s (0xFF#8 ++ abs) →
      Effect (.bxorImmAbs imm abs) s (s.pc + 4#16) [] [(.c, xor (s.flag .c) ((s.mem8 (0xFF#8 ++ abs)).getLsbD imm.toNat))] []) ∧
    (∀ (imm : Imm3) (rd : Reg16), IsMemory s (s.r16 rd) →
      Effect (.bixorImmInd imm rd) s (s.pc + 4#16) [] [(.c, xor (s.flag .c) (!((s.mem8 (s.r16 rd)).getLsbD imm.toNat)))] []) ∧
    (∀ (imm : Imm3) (abs : Byte), IsMemory s (0xFF#8 ++ abs) →
      Effect (.bixorImmAbs imm abs) s (s.pc + 4#16) [] [(.c, xor (s.flag .c) (!((s.mem8 (0xFF#8 ++ abs)).getLsbD imm.toNat)))] []) ∧
    (∀ (imm : Imm3) (rd : Reg16), IsMemory s (s.r16 rd) →
      Effect (.bldImmInd imm rd) s (s.pc + 4#16) [] [(.c, ((s.mem8 (s.r16 rd)).getLsbD imm.toNat))] []) ∧
    (∀ (imm : Imm3) (abs : Byte), IsMemory s (0xFF#8 ++ abs) →
      Effect (.bldImmAbs imm abs) s (s.pc + 4#16) [] [(.c, ((s.mem8 (0xFF#8 ++ abs)).getLsbD imm.toNat))] []) ∧
    (∀ (imm : Imm3) (rd : Reg16), IsMemory s (s.r16 rd) →
      Effect (.bildImmInd imm rd) s (s.pc + 4#16) [] [(.c, !((s.mem8 (s.r16 rd)).getLsbD imm.toNat))] []) ∧
    (∀ (imm : Imm3) (abs : Byte), IsMemory s (0xFF#8 ++ abs) →
      Effect (.bildImmAbs imm abs) s (s.pc + 4#16) [] [(.c, !((s.mem8 (0xFF#8 ++ abs)).getLsbD imm.toNat))] [])

/-- O37. The sixteen branches go to npc plus the signed displacement exactly when their condition holds. Rests on R251
(spec/44_branch.md), R252 (spec/44_branch.md), R262 (spec/44_branch.md), D2, D17 (spec/92_eei_decisions.md). The model's
choices or the spec's own inferences in it: log entry 11. -/
def Obligations.ConditionalBranches : Prop :=
  ∀ (s : State) (disp : Byte),
    Effect (.bra disp) s (if true then (s.pc + 2#16 + BitVec.ofInt 16 disp.toInt) &&& 0xFFFE#16 else s.pc + 2#16) [] [] [] ∧
    Effect (.brn disp) s (if false then (s.pc + 2#16 + BitVec.ofInt 16 disp.toInt) &&& 0xFFFE#16 else s.pc + 2#16) [] [] [] ∧
    Effect (.bhi disp) s (if !(s.flag .c || s.flag .z) then (s.pc + 2#16 + BitVec.ofInt 16 disp.toInt) &&& 0xFFFE#16 else s.pc + 2#16) [] [] [] ∧
    Effect (.bls disp) s (if s.flag .c || s.flag .z then (s.pc + 2#16 + BitVec.ofInt 16 disp.toInt) &&& 0xFFFE#16 else s.pc + 2#16) [] [] [] ∧
    Effect (.bcc disp) s (if !s.flag .c then (s.pc + 2#16 + BitVec.ofInt 16 disp.toInt) &&& 0xFFFE#16 else s.pc + 2#16) [] [] [] ∧
    Effect (.bcs disp) s (if s.flag .c then (s.pc + 2#16 + BitVec.ofInt 16 disp.toInt) &&& 0xFFFE#16 else s.pc + 2#16) [] [] [] ∧
    Effect (.bne disp) s (if !s.flag .z then (s.pc + 2#16 + BitVec.ofInt 16 disp.toInt) &&& 0xFFFE#16 else s.pc + 2#16) [] [] [] ∧
    Effect (.beq disp) s (if s.flag .z then (s.pc + 2#16 + BitVec.ofInt 16 disp.toInt) &&& 0xFFFE#16 else s.pc + 2#16) [] [] [] ∧
    Effect (.bvc disp) s (if !s.flag .v then (s.pc + 2#16 + BitVec.ofInt 16 disp.toInt) &&& 0xFFFE#16 else s.pc + 2#16) [] [] [] ∧
    Effect (.bvs disp) s (if s.flag .v then (s.pc + 2#16 + BitVec.ofInt 16 disp.toInt) &&& 0xFFFE#16 else s.pc + 2#16) [] [] [] ∧
    Effect (.bpl disp) s (if !s.flag .n then (s.pc + 2#16 + BitVec.ofInt 16 disp.toInt) &&& 0xFFFE#16 else s.pc + 2#16) [] [] [] ∧
    Effect (.bmi disp) s (if s.flag .n then (s.pc + 2#16 + BitVec.ofInt 16 disp.toInt) &&& 0xFFFE#16 else s.pc + 2#16) [] [] [] ∧
    Effect (.bge disp) s (if !(xor (s.flag .n) (s.flag .v)) then (s.pc + 2#16 + BitVec.ofInt 16 disp.toInt) &&& 0xFFFE#16 else s.pc + 2#16) [] [] [] ∧
    Effect (.blt disp) s (if xor (s.flag .n) (s.flag .v) then (s.pc + 2#16 + BitVec.ofInt 16 disp.toInt) &&& 0xFFFE#16 else s.pc + 2#16) [] [] [] ∧
    Effect (.bgt disp) s (if !(s.flag .z || xor (s.flag .n) (s.flag .v)) then (s.pc + 2#16 + BitVec.ofInt 16 disp.toInt) &&& 0xFFFE#16 else s.pc + 2#16) [] [] [] ∧
    Effect (.ble disp) s (if s.flag .z || xor (s.flag .n) (s.flag .v) then (s.pc + 2#16 + BitVec.ofInt 16 disp.toInt) &&& 0xFFFE#16 else s.pc + 2#16) [] [] []

/-- O38. After CMP Rs,Rd the ten comparing branches compare Rd with Rs (the spec's reading of the manual's table). Rests on
R252 (spec/44_branch.md), R159 (spec/41_arithmetic.md), R160 (spec/41_arithmetic.md), R15 (spec/00_scope.md), D2, D18
(spec/92_eei_decisions.md). The model's choices or the spec's own inferences in it: log entries 11 and 19. -/
def Obligations.CompareThenBranch : Prop :=
  ∀ (s t : State) (disp : Byte),
  (∀ rs rd : Reg8, exec (.cmpBReg rs rd) s = .next t →
    (∃ u, exec (.bhi disp) t = .next u ∧ u.pc = if (s.r8 rs).toNat < (s.r8 rd).toNat then (t.pc + 2#16 + BitVec.ofInt 16 disp.toInt) &&& 0xFFFE#16 else t.pc + 2#16) ∧
    (∃ u, exec (.bls disp) t = .next u ∧ u.pc = if (s.r8 rd).toNat ≤ (s.r8 rs).toNat then (t.pc + 2#16 + BitVec.ofInt 16 disp.toInt) &&& 0xFFFE#16 else t.pc + 2#16) ∧
    (∃ u, exec (.bcc disp) t = .next u ∧ u.pc = if (s.r8 rs).toNat ≤ (s.r8 rd).toNat then (t.pc + 2#16 + BitVec.ofInt 16 disp.toInt) &&& 0xFFFE#16 else t.pc + 2#16) ∧
    (∃ u, exec (.bcs disp) t = .next u ∧ u.pc = if (s.r8 rd).toNat < (s.r8 rs).toNat then (t.pc + 2#16 + BitVec.ofInt 16 disp.toInt) &&& 0xFFFE#16 else t.pc + 2#16) ∧
    (∃ u, exec (.bne disp) t = .next u ∧ u.pc = if (s.r8 rd) ≠ (s.r8 rs) then (t.pc + 2#16 + BitVec.ofInt 16 disp.toInt) &&& 0xFFFE#16 else t.pc + 2#16) ∧
    (∃ u, exec (.beq disp) t = .next u ∧ u.pc = if (s.r8 rd) = (s.r8 rs) then (t.pc + 2#16 + BitVec.ofInt 16 disp.toInt) &&& 0xFFFE#16 else t.pc + 2#16) ∧
    (∃ u, exec (.bge disp) t = .next u ∧ u.pc = if (s.r8 rs).toInt ≤ (s.r8 rd).toInt then (t.pc + 2#16 + BitVec.ofInt 16 disp.toInt) &&& 0xFFFE#16 else t.pc + 2#16) ∧
    (∃ u, exec (.blt disp) t = .next u ∧ u.pc = if (s.r8 rd).toInt < (s.r8 rs).toInt then (t.pc + 2#16 + BitVec.ofInt 16 disp.toInt) &&& 0xFFFE#16 else t.pc + 2#16) ∧
    (∃ u, exec (.bgt disp) t = .next u ∧ u.pc = if (s.r8 rs).toInt < (s.r8 rd).toInt then (t.pc + 2#16 + BitVec.ofInt 16 disp.toInt) &&& 0xFFFE#16 else t.pc + 2#16) ∧
    (∃ u, exec (.ble disp) t = .next u ∧ u.pc = if (s.r8 rd).toInt ≤ (s.r8 rs).toInt then (t.pc + 2#16 + BitVec.ofInt 16 disp.toInt) &&& 0xFFFE#16 else t.pc + 2#16)) ∧
  (∀ rs rd : Reg16, exec (.cmpW rs rd) s = .next t →
    (∃ u, exec (.bhi disp) t = .next u ∧ u.pc = if (s.r16 rs).toNat < (s.r16 rd).toNat then (t.pc + 2#16 + BitVec.ofInt 16 disp.toInt) &&& 0xFFFE#16 else t.pc + 2#16) ∧
    (∃ u, exec (.bls disp) t = .next u ∧ u.pc = if (s.r16 rd).toNat ≤ (s.r16 rs).toNat then (t.pc + 2#16 + BitVec.ofInt 16 disp.toInt) &&& 0xFFFE#16 else t.pc + 2#16) ∧
    (∃ u, exec (.bcc disp) t = .next u ∧ u.pc = if (s.r16 rs).toNat ≤ (s.r16 rd).toNat then (t.pc + 2#16 + BitVec.ofInt 16 disp.toInt) &&& 0xFFFE#16 else t.pc + 2#16) ∧
    (∃ u, exec (.bcs disp) t = .next u ∧ u.pc = if (s.r16 rd).toNat < (s.r16 rs).toNat then (t.pc + 2#16 + BitVec.ofInt 16 disp.toInt) &&& 0xFFFE#16 else t.pc + 2#16) ∧
    (∃ u, exec (.bne disp) t = .next u ∧ u.pc = if (s.r16 rd) ≠ (s.r16 rs) then (t.pc + 2#16 + BitVec.ofInt 16 disp.toInt) &&& 0xFFFE#16 else t.pc + 2#16) ∧
    (∃ u, exec (.beq disp) t = .next u ∧ u.pc = if (s.r16 rd) = (s.r16 rs) then (t.pc + 2#16 + BitVec.ofInt 16 disp.toInt) &&& 0xFFFE#16 else t.pc + 2#16) ∧
    (∃ u, exec (.bge disp) t = .next u ∧ u.pc = if (s.r16 rs).toInt ≤ (s.r16 rd).toInt then (t.pc + 2#16 + BitVec.ofInt 16 disp.toInt) &&& 0xFFFE#16 else t.pc + 2#16) ∧
    (∃ u, exec (.blt disp) t = .next u ∧ u.pc = if (s.r16 rd).toInt < (s.r16 rs).toInt then (t.pc + 2#16 + BitVec.ofInt 16 disp.toInt) &&& 0xFFFE#16 else t.pc + 2#16) ∧
    (∃ u, exec (.bgt disp) t = .next u ∧ u.pc = if (s.r16 rs).toInt < (s.r16 rd).toInt then (t.pc + 2#16 + BitVec.ofInt 16 disp.toInt) &&& 0xFFFE#16 else t.pc + 2#16) ∧
    (∃ u, exec (.ble disp) t = .next u ∧ u.pc = if (s.r16 rd).toInt ≤ (s.r16 rs).toInt then (t.pc + 2#16 + BitVec.ofInt 16 disp.toInt) &&& 0xFFFE#16 else t.pc + 2#16))

/-- O39. JMP sets the PC from a register, an absolute address or a word of page zero; RTS pops it. Rests on R254
(spec/44_branch.md), R255 (spec/44_branch.md), R256 (spec/44_branch.md), R260 (spec/44_branch.md), R262 (spec/44_branch.md),
R57 (spec/20_memory.md). The model's choices or the spec's own inferences in it: log entries 11 and 23. -/
def Obligations.JumpsAndReturn : Prop :=
  ∀ s : State,
    (∀ rn : Reg16, Effect (.jmpInd rn) s (s.r16 rn &&& 0xFFFE#16) [] [] []) ∧
    (∀ abs : Word, Effect (.jmpAbs abs) s (abs &&& 0xFFFE#16) [] [] []) ∧
    (∀ abs : Byte, WordReadable s (0x00#8 ++ abs) →
      Effect (.jmpMem abs) s (s.mem16 (0x00#8 ++ abs) &&& 0xFFFE#16) [] [] []) ∧
    (WordReadable s (s.r16 7#3) →
      Effect .rts s (s.mem16 (s.r16 7#3) &&& 0xFFFE#16) (wordReg 7#3 (s.r16 7#3 + 2#16)) [] [])

/-- O40. POP after PUSH gives the word back; RTS after BSR comes back to the next instruction. Rests on R73
(spec/20_memory.md), R143 (spec/40_data_transfer.md), R144 (spec/40_data_transfer.md), R253 (spec/44_branch.md), R260
(spec/44_branch.md), R35 (spec/10_state.md). The model's choices or the spec's own inferences in it: log entry 11. -/
def Obligations.StackRoundTrips : Prop :=
  (∀ (s t : State) (rn rm : Reg16), rn ≠ 7#3 → rm ≠ 7#3 → exec (.push rn) s = .next t →
    ∃ u, exec (.pop rm) t = .next u ∧ u.r16 rm = s.r16 rn ∧ u.r16 7#3 = s.r16 7#3) ∧
  (∀ (s t : State) (disp : Byte), s.pc.getLsbD 0 = false → exec (.bsr disp) s = .next t →
    ∃ u, exec .rts t = .next u ∧ u.pc = s.pc + 2#16 ∧ u.regs = s.regs ∧ u.ccr = s.ccr)

/-- O41. BSR and JSR push the address of the next instruction and jump. Rests on R253 (spec/44_branch.md), R257
(spec/44_branch.md), R258 (spec/44_branch.md), R259 (spec/44_branch.md), D34 (spec/92_eei_decisions.md). The model's choices
or the spec's own inferences in it: log entries 11, 18 and 23. -/
def Obligations.Calls : Prop :=
  ∀ s : State,
    (∀ disp : Byte, WordStorable s (s.pc + 2#16) (s.r16 7#3 - 2#16) →
      Effect (.bsr disp) s ((s.pc + 2#16 + BitVec.ofInt 16 disp.toInt) &&& 0xFFFE#16) (wordReg 7#3 (s.r16 7#3 - 2#16)) [] (wordCells (s.r16 7#3 - 2#16) (s.pc + 2#16))) ∧
    (∀ rn : Reg16, WordStorable s (s.pc + 2#16) (s.r16 7#3 - 2#16) →
      Effect (.jsrInd rn) s (s.r16 rn &&& 0xFFFE#16) (wordReg 7#3 (s.r16 7#3 - 2#16)) [] (wordCells (s.r16 7#3 - 2#16) (s.pc + 2#16))) ∧
    (∀ abs : Word, WordStorable s (s.pc + 4#16) (s.r16 7#3 - 2#16) →
      Effect (.jsrAbs abs) s (abs &&& 0xFFFE#16) (wordReg 7#3 (s.r16 7#3 - 2#16)) [] (wordCells (s.r16 7#3 - 2#16) (s.pc + 4#16))) ∧
    (∀ abs : Byte, WordReadable s (0x00#8 ++ abs) → WordStorable s (s.pc + 2#16) (s.r16 7#3 - 2#16) →
      Effect (.jsrMem abs) s (s.mem16 (0x00#8 ++ abs) &&& 0xFFFE#16) (wordReg 7#3 (s.r16 7#3 - 2#16)) [] (wordCells (s.r16 7#3 - 2#16) (s.pc + 2#16)))

/-- O42. LDC, ANDC, ORC, XORC write all eight CCR bits and defer interrupts. Rests on R273 (spec/45_system_control.md), R274
(spec/45_system_control.md), R276 (spec/45_system_control.md), R277 (spec/45_system_control.md), R278
(spec/45_system_control.md), R45 (spec/10_state.md). -/
def Obligations.CcrWriters : Prop :=
  ∀ (s : State) (i : Instr) (v : Byte), ((∃ imm, i = .ldcImm imm ∧ v = imm) ∨ (∃ rs, i = .ldcReg rs ∧ v = s.r8 rs) ∨
      (∃ imm, i = .andc imm ∧ v = s.ccr &&& imm) ∨ (∃ imm, i = .orc imm ∧ v = s.ccr ||| imm) ∨
      (∃ imm, i = .xorc imm ∧ v = s.ccr ^^^ imm)) →
    ∃ t, exec i s = .next t ∧ t.ccr = v ∧ t.irqInhibit = true ∧
      Differs s t (s.pc + 2#16) [] [(.i, v.getLsbD 7), (.u6, v.getLsbD 6), (.h, v.getLsbD 5), (.u4, v.getLsbD 4),
        (.n, v.getLsbD 3), (.z, v.getLsbD 2), (.v, v.getLsbD 1), (.c, v.getLsbD 0)] []

/-- O43. STC copies the CCR to a byte register; NOP only moves the PC. Formalises R275 (spec/45_system_control.md), R279
(spec/45_system_control.md). -/
def Obligations.StoreCcrAndNop : Prop :=
  (∀ (s : State) (rd : Reg8), Effect (.stc rd) s (s.pc + 2#16) [(rd, s.ccr)] [] []) ∧
  (∀ s : State, Effect .nop s (s.pc + 2#16) [] [] []) ∧
  (∀ (rd : Reg8), encode (.stc rd) = [joinBytes 0x02#8 (joinNibbles 0#4 rd)]) ∧
  encode (.nop) = [joinBytes 0x00#8 0x00#8]

/-- O44. SLEEP moves the PC on, enters power-down, and the CPU then waits. Rests on R272 (spec/45_system_control.md), R323
(spec/60_exceptions.md), D20 (spec/92_eei_decisions.md). The model's choices or the spec's own inferences in it: log entry 16.
-/
def Obligations.SleepEntersPowerDown : Prop :=
  (∀ s : State, ∃ t, exec .sleep s = .next t ∧ t.cpuState = .powerDown ∧ t.pc = s.pc + 2#16 ∧ t.regs = s.regs ∧
    t.ccr = s.ccr ∧ t.mem = s.mem ∧ t.env = s.env ∧ t.chip = s.chip) ∧
  (∀ s : State, s.cpuState = .powerDown → s.tick.resLow = false → (∀ k ∈ s.tick.pending, s.admissible k = none) →
    step s = .next s.consumeTick) ∧
  (∀ (s : State) (id : Nat) (src : IrqSource), s.flag .i = true → s.admissible id = some src → src.isNmi = true) ∧
  encode (.sleep) = [joinBytes 0x01#8 0x80#8]

/-- O45. RTE pops the CCR word, then the PC. Rests on R271 (spec/45_system_control.md), R57 (spec/20_memory.md). The model's
choices or the spec's own inferences in it: log entries 11 and 23. -/
def Obligations.ReturnFromException : Prop :=
  ∀ s : State, WordReadable s (s.r16 7#3) → WordReadable s (s.r16 7#3 + 2#16) →
    ∃ t, exec .rte s = .next t ∧ t.ccr = s.mem8 (evenAddr (s.r16 7#3)) ∧
      Differs s t (s.mem16 (s.r16 7#3 + 2#16) &&& 0xFFFE#16) (wordReg 7#3 (s.r16 7#3 + 4#16))
        ([.i, .u6, .h, .u4, .n, .z, .v, .c].map (fun f => (f, getFlag (s.mem8 (evenAddr (s.r16 7#3))) f))) []

/-- O46. EEPMOV copies R4L bytes in ascending order, one by one (the order is the spec's decision D23), overlapping blocks
included. Rests on R285 (spec/46_block_transfer.md), R72 (spec/20_memory.md), D23 (spec/92_eei_decisions.md). The model's
choices or the spec's own inferences in it: log entry 18. -/
def Obligations.BlockTransfer : Prop :=
  ∀ (s : State) (n : Nat), n = (s.r8 12#4).toNat → IsMemory s (s.r16 5#3) → IsMemory s (s.r16 6#3) →
    (∀ k : Nat, k < n → IsMemory s (s.r16 5#3 + BitVec.ofNat 16 k) ∧
      ByteStorable s (s.pc + 4#16) (s.r16 6#3 + BitVec.ofNat 16 k)) →
    Effect .eepmov s (s.pc + 4#16)
      ((12#4, 0#8) :: (wordReg 5#3 (s.r16 5#3 + BitVec.ofNat 16 n) ++ wordReg 6#3 (s.r16 6#3 + BitVec.ofNat 16 n))) []
      ((List.range n).map (fun j => (s.r16 6#3 + BitVec.ofNat 16 j,
        s.mem8 (s.r16 5#3 + BitVec.ofNat 16 (j % (s.r16 6#3 - s.r16 5#3).toNat)))))

/-- O47. Interrupt entry pushes the PC and two copies of the CCR, sets I and takes the vector. Rests on R310
(spec/60_exceptions.md), R312 (spec/60_exceptions.md), R313 (spec/60_exceptions.md), R323 (spec/60_exceptions.md), R309
(spec/60_exceptions.md), D19 (spec/92_eei_decisions.md), R70 (spec/20_memory.md). The model's choices or the spec's own
inferences in it: log entries 11, 17, 18, 23 and 25. -/
def Obligations.InterruptEntry : Prop :=
  ∀ (s : State) (id : Nat) (src : IrqSource), s.tick.resLow = false →
    (s.cpuState = .programExecution ∧ s.irqInhibit = false ∨ s.cpuState = .powerDown) → IsChosen s id src →
    WordWritable s (s.r16 7#3 - 2#16) → WordWritable s (s.r16 7#3 - 4#16) → WordReadable s src.vectorAddr →
    (src.isNmi = true ∨ s.flag .i = false) ∧ s.chip.irqSources[id]? = some src ∧
    ∃ t, step s = .next t ∧ t.mem16 (s.r16 7#3 - 2#16) = s.pc ∧ t.mem16 (s.r16 7#3 - 4#16) = s.ccr ++ s.ccr ∧
      t.r16 7#3 = s.r16 7#3 - 4#16 ∧ KeepsRegs s t [7#4, 15#4] ∧ t.flag .i = true ∧ KeepsFlags s t [.i] ∧
      t.pc = t.mem16 src.vectorAddr &&& 0xFFFE#16 ∧ t.irqInhibit = false ∧ t.cpuState = .programExecution ∧
      KeepsMem s t (wordBytes (s.r16 7#3 - 2#16) ++ wordBytes (s.r16 7#3 - 4#16)) ∧
      t.env = { s.env with ticks := s.env.ticks.tail, seen := .accepted id :: s.env.seen } ∧ t.chip = s.chip

/-- O48. RTE from an interrupt restores the interrupted program exactly. Rests on R312 (spec/60_exceptions.md), R314
(spec/60_exceptions.md), R316 (spec/60_exceptions.md), R271 (spec/45_system_control.md). The model's choices or the spec's own
inferences in it: log entry 11. -/
def Obligations.InterruptThenReturn : Prop :=
  ∀ (s t : State) (id : Nat) (src : IrqSource), s.tick.resLow = false → s.pc.getLsbD 0 = false →
    (s.cpuState = .programExecution ∧ s.irqInhibit = false ∨ s.cpuState = .powerDown) → IsChosen s id src →
    step s = .next t → ∃ u, exec .rte t = .next u ∧ u.pc = s.pc ∧ u.regs = s.regs ∧ u.ccr = s.ccr

/-- O49. No interrupt, NMI included, is accepted right after LDC, ANDC, ORC, XORC or a reset. Rests on R311
(spec/60_exceptions.md), R45 (spec/10_state.md), R306 (spec/60_exceptions.md), D22, D27 (spec/92_eei_decisions.md). The
model's choices or the spec's own inferences in it: log entries 17 and 28. -/
def Obligations.InterruptDeferral : Prop :=
  (∀ (i : Instr) (s t : State), exec i s = .next t → t.irqInhibit = defersInterrupts i) ∧
  (∀ (s : State) (i : Instr) (rest : List Byte), s.irqInhibit = true → s.tick.resLow = false →
    s.cpuState = .programExecution → decode s.codeBytes = .ok (i, rest) →
    (∀ k : Nat, k < 4 → IsMemory s (evenAddr s.pc + BitVec.ofNat 16 k)) → step s = exec i s.consumeTick)

/-- O50. RES low stops everything and sets I, in every operation state, at a boundary or in the middle of an instruction.
Rests on R303 (spec/60_exceptions.md), R302, R304 (spec/60_exceptions.md), R285 (spec/46_block_transfer.md), D10, D23
(spec/92_eei_decisions.md). The model's choices or the spec's own inferences in it: log entries 14 and 18. -/
def Obligations.ResetLine : Prop :=
  (∀ s : State, s.tick.res = .low → ∃ t, step s = .next t ∧ t.cpuState = .reset ∧ t.flag .i = true ∧
    KeepsFlags s t [.i] ∧ t.regs = s.regs ∧ t.pc = s.pc ∧ t.mem = s.mem ∧ t.env.seen = s.env.seen ∧ t.chip = s.chip) ∧
  (∀ (s t : State) (k : Nat), s.tick.res = .lowAfter k → step s = .next t →
    t.cpuState = .reset ∧ t.flag .i = true ∧ t.chip = s.chip ∧ t.env.ticks = s.env.ticks.tail) ∧
  (∀ (s u : State) (i : Instr) (k : Nat), AbandonsAfter s i k → (dataAccesses i s).run k s.consumeTick = .ok u →
    ∃ t, step s = .next t ∧ t.cpuState = .reset ∧ t.mem = u.mem ∧ t.env = u.env) ∧
  (∀ (s : State) (j k : Nat), AbandonsAfter s .eepmov k → k / 2 = j + 1 → j ≤ (s.r8 12#4).toNat →
    IsMemory s (s.r16 5#3) → IsMemory s (s.r16 6#3) →
    (∀ m : Nat, m ≤ j → m < (s.r8 12#4).toNat → IsMemory s (s.r16 5#3 + BitVec.ofNat 16 m)) →
    (∀ m : Nat, m < j → ByteStorable s (s.pc + 4#16) (s.r16 6#3 + BitVec.ofNat 16 m)) →
    ∃ t, step s = .next t ∧ t.cpuState = .reset ∧
      (∀ m : Nat, m < j → t.mem8 (s.r16 6#3 + BitVec.ofNat 16 m) =
        s.mem8 (s.r16 5#3 + BitVec.ofNat 16 (m % (s.r16 6#3 - s.r16 5#3).toNat))) ∧
      KeepsMem s t ((List.range j).map (fun m => s.r16 6#3 + BitVec.ofNat 16 m)))

/-- O51. When RES goes high the PC comes from the reset vector word; nothing is pushed. Rests on R305 (spec/60_exceptions.md),
R306 (spec/60_exceptions.md), R49 (spec/10_state.md). The model's choices or the spec's own inferences in it: log entries 7,
11, 14 and 23. -/
def Obligations.ResetSequence : Prop :=
  ∀ s : State, s.tick.resLow = false → s.cpuState = .reset → WordReadable s s.chip.resetVectorAddr →
    ∃ t, step s = .next t ∧ t.pc = s.mem16 s.chip.resetVectorAddr &&& 0xFFFE#16 ∧ t.flag .i = true ∧
      t.irqInhibit = true ∧ t.cpuState = .programExecution ∧ t.chip = s.chip ∧ t.env.seen = s.env.seen ∧
      ∀ a : Addr, (s.chip.ramKept = true ∨ ¬ IsRam s a) → t.mem8 a = s.mem8 a

/-- O52. The state after reset: PC from the vector word, I and the inhibit latch set, program execution state. Rests on R49
(spec/10_state.md), R341 (spec/70_reset_and_hazards.md). The model's choices or the spec's own inferences in it: log entries 2
and 3. -/
def Obligations.ResetStateValues : Prop :=
  State.reset.pc = State.reset.mem16 State.reset.chip.resetVectorAddr &&& 0xFFFE#16 ∧ State.reset.flag .i = true ∧
    State.reset.irqInhibit = true ∧ State.reset.cpuState = .programExecution

/-- O53. No instruction changes a CCR bit that the manual's flag summary does not give it. Rests on R108
(spec/30_encoding.md), R37 (spec/10_state.md), R38 (spec/10_state.md), R43 (spec/10_state.md). -/
def Obligations.FlagSummary : Prop :=
  ∀ (i : Instr) (s t : State), exec i s = .next t → KeepsFlags s t (flagsWritten i)

/-- O54. Memory changes only by the storing instructions, and no instruction changes the chip or what was reported. Rests on
R58 (spec/20_memory.md), R66 (spec/20_memory.md), R48 (spec/10_state.md). -/
def Obligations.OnlyStoresWriteMemory : Prop :=
  ∀ (i : Instr) (s t : State), exec i s = .next t → (storesMemory i = false → t.mem = s.mem) ∧ t.chip = s.chip ∧
    t.env.ticks = s.env.ticks ∧ ∃ told, t.env.seen = told ++ s.env.seen

/-- O55. The PC moves to the next instruction except by control transfers; only SLEEP leaves program execution. Rests on R34
(spec/10_state.md), R46 (spec/10_state.md), R11 (spec/00_scope.md), R272 (spec/45_system_control.md), D17, D20
(spec/92_eei_decisions.md). The model's choices or the spec's own inferences in it: log entries 16 and 22. -/
def Obligations.OnlyTransfersAssignThePc : Prop :=
  ∀ (i : Instr) (s t : State), exec i s = .next t → (transfersControl i = false → t.pc = s.pc + i.length) ∧
    t.cpuState = if i = .sleep then .powerDown else s.cpuState

/-- O56. Every step keeps memory canonical, the PC even, and ends in no transient state. Rests on R34 (spec/10_state.md), R35
(spec/10_state.md), R46 (spec/10_state.md), R56 (spec/20_memory.md). The model's choices or the spec's own inferences in it:
log entries 11 and 15. -/
def Obligations.InvariantKept : Prop :=
  ∀ s t : State, Inv s → step s = .next t → Inv t

/-- O57. The state after reset satisfies the invariant. Rests on R49 (spec/10_state.md). -/
def Obligations.InvariantAtReset : Prop :=
  Inv State.reset

/-- O58. Memory: a byte write is read back and changes no other byte; a word is two bytes, high byte first. Rests on R53
(spec/20_memory.md), R55 (spec/20_memory.md), R61 (spec/20_memory.md), R12 (spec/00_scope.md). The model's choices or the
spec's own inferences in it: log entry 23. -/
def Obligations.MemoryReadsWhatWasWritten : Prop :=
  (∀ (m : Memory) (a b : Nat) (v : Byte), Memory.read (Memory.write m a v) b = if b = a then v else Memory.read m b) ∧
  (∀ (s : State) (a : Addr) (v : Word), (s.putWord a v).mem8 (a &&& 0xFFFE#16) = BitVec.ofNat 8 (v.toNat / 256) ∧
    (s.putWord a v).mem8 (a ||| 0x0001#16) = BitVec.ofNat 8 v.toNat ∧
    (s.putWord a v).wordAt (a &&& 0xFFFE#16) = v ∧ (s.putWord a v).wordAt (a ||| 0x0001#16) = v ∧
    ∀ b : Addr, b ≠ a &&& 0xFFFE#16 → b ≠ a ||| 0x0001#16 → (s.putWord a v).mem8 b = s.mem8 b) ∧
  (∀ m k : Memory, Memory.wf m = true → Memory.wf k = true → (∀ a : Nat, Memory.read m a = Memory.read k a) → m = k)

/-- O59. The manual's worked state counts. Rests on R356 (spec/70_reset_and_hazards.md), R357 (spec/70_reset_and_hazards.md),
R358 (spec/70_reset_and_hazards.md). The model's choices or the spec's own inferences in it: log entry 26. -/
def Obligations.ExecutionStates : Prop :=
  instrStates 0 (.bsetImmAbs 0#3 0x00#8) = 8 ∧
    executionStates (instrCycles 0 (.bsetImmAbs 0#3 0x00#8)) (statesWithData (.peripheralModule true)) = 10 ∧
    instrStates 0 (.jsrMem 0x30#8) = 8 ∧ instrStates 0 (.mulxu 0#4 1#3) = 14 ∧ instrStates 0 (.divxu 0#4 1#3) = 14 ∧
    instrStates 0 .rte = 10 ∧ instrStates 255 .eepmov = 4 * 255 + 9

/-- O60. MOV.B to a peripheral byte hands the byte to the environment and leaves memory alone. Rests on R62
(spec/20_memory.md), R131 (spec/40_data_transfer.md), R132 (spec/40_data_transfer.md), R133 (spec/40_data_transfer.md), R134
(spec/40_data_transfer.md), R135 (spec/40_data_transfer.md), R70 (spec/20_memory.md). -/
def Obligations.ByteStoreToPeripheral : Prop :=
  ∀ s : State,
    (∀ (rs : Reg8) (rd : Reg16), IsPeripheral s (s.r16 rd) → NotImminent (s.pc + 2#16) (s.r16 rd) →
      ∃ t, exec (.movBStoreInd rs rd) s = .next t ∧
        Differs { s with env := { s.env with seen := .write (s.r16 rd) (s.r8 rs) :: s.env.seen } } t (s.pc + 2#16) []
          (valueFlags (s.r8 rs)) []) ∧
    (∀ (rs : Reg8) (disp : Word) (rd : Reg16), IsPeripheral s (s.r16 rd + disp) →
      NotImminent (s.pc + 4#16) (s.r16 rd + disp) → ∃ t, exec (.movBStoreDisp rs disp rd) s = .next t ∧
        Differs { s with env := { s.env with seen := .write (s.r16 rd + disp) (s.r8 rs) :: s.env.seen } } t (s.pc + 4#16) []
          (valueFlags (s.r8 rs)) []) ∧
    (∀ (rs : Reg8) (abs : Byte), IsPeripheral s (0xFF#8 ++ abs) → NotImminent (s.pc + 2#16) (0xFF#8 ++ abs) →
      ∃ t, exec (.movBStoreAbs8 rs abs) s = .next t ∧
        Differs { s with env := { s.env with seen := .write (0xFF#8 ++ abs) (s.r8 rs) :: s.env.seen } } t (s.pc + 2#16) []
          (valueFlags (s.r8 rs)) []) ∧
    (∀ (rs : Reg8) (abs : Word), IsPeripheral s abs → NotImminent (s.pc + 4#16) abs →
      ∃ t, exec (.movBStoreAbs16 rs abs) s = .next t ∧
        Differs { s with env := { s.env with seen := .write abs (s.r8 rs) :: s.env.seen } } t (s.pc + 4#16) []
          (valueFlags (s.r8 rs)) []) ∧
    (∀ (rs : Reg8) (rd : Reg16) (v : Byte), IsPeripheral s (s.r16 rd - 1#16) → NotImminent (s.pc + 2#16) (s.r16 rd - 1#16) →
      v = (if low3 rs = rd then (if topBit rs then loByte (s.r16 rd - 1#16) else hiByte (s.r16 rd - 1#16)) else s.r8 rs) →
      ∃ t, exec (.movBPreDec rs rd) s = .next t ∧
        Differs { s with env := { s.env with seen := .write (s.r16 rd - 1#16) v :: s.env.seen } } t (s.pc + 2#16)
          (wordReg rd (s.r16 rd - 1#16)) (valueFlags v) [])

end
end

