-- ==== Sys2Proof/Laws/State.lean ====
section
/-! SUPPORT. The fields of a state after each update, one lemma per field, true by `rfl`. -/

namespace Sys2Proof.Machine

@[simp] theorem State.setR16_regs (s : State) (n : Reg16) (v : Word) : (s.setR16 n v).regs = s.regs.set n.toNat v n.isLt := rfl
@[simp] theorem State.setR16_pc (s : State) (n : Reg16) (v : Word) : (s.setR16 n v).pc = s.pc := rfl
@[simp] theorem State.setR16_ccr (s : State) (n : Reg16) (v : Word) : (s.setR16 n v).ccr = s.ccr := rfl
@[simp] theorem State.setR16_mem (s : State) (n : Reg16) (v : Word) : (s.setR16 n v).mem = s.mem := rfl
@[simp] theorem State.setR16_irqInhibit (s : State) (n : Reg16) (v : Word) : (s.setR16 n v).irqInhibit = s.irqInhibit := rfl
@[simp] theorem State.setR16_cpuState (s : State) (n : Reg16) (v : Word) : (s.setR16 n v).cpuState = s.cpuState := rfl
@[simp] theorem State.setR16_env (s : State) (n : Reg16) (v : Word) : (s.setR16 n v).env = s.env := rfl
@[simp] theorem State.setR16_draws (s : State) (n : Reg16) (v : Word) : (s.setR16 n v).draws = s.draws := rfl
@[simp] theorem State.setR16_chip (s : State) (n : Reg16) (v : Word) : (s.setR16 n v).chip = s.chip := rfl

@[simp] theorem State.setR8_pc (s : State) (c : Reg8) (v : Byte) : (s.setR8 c v).pc = s.pc := rfl
@[simp] theorem State.setR8_ccr (s : State) (c : Reg8) (v : Byte) : (s.setR8 c v).ccr = s.ccr := rfl
@[simp] theorem State.setR8_mem (s : State) (c : Reg8) (v : Byte) : (s.setR8 c v).mem = s.mem := rfl
@[simp] theorem State.setR8_irqInhibit (s : State) (c : Reg8) (v : Byte) : (s.setR8 c v).irqInhibit = s.irqInhibit := rfl
@[simp] theorem State.setR8_cpuState (s : State) (c : Reg8) (v : Byte) : (s.setR8 c v).cpuState = s.cpuState := rfl
@[simp] theorem State.setR8_env (s : State) (c : Reg8) (v : Byte) : (s.setR8 c v).env = s.env := rfl
@[simp] theorem State.setR8_draws (s : State) (c : Reg8) (v : Byte) : (s.setR8 c v).draws = s.draws := rfl
@[simp] theorem State.setR8_chip (s : State) (c : Reg8) (v : Byte) : (s.setR8 c v).chip = s.chip := rfl

@[simp] theorem State.setSp_regs (s : State) (v : Word) : (s.setSp v).regs = s.regs.set 7 v := rfl
@[simp] theorem State.setSp_pc (s : State) (v : Word) : (s.setSp v).pc = s.pc := rfl
@[simp] theorem State.setSp_ccr (s : State) (v : Word) : (s.setSp v).ccr = s.ccr := rfl
@[simp] theorem State.setSp_mem (s : State) (v : Word) : (s.setSp v).mem = s.mem := rfl
@[simp] theorem State.setSp_irqInhibit (s : State) (v : Word) : (s.setSp v).irqInhibit = s.irqInhibit := rfl
@[simp] theorem State.setSp_cpuState (s : State) (v : Word) : (s.setSp v).cpuState = s.cpuState := rfl
@[simp] theorem State.setSp_env (s : State) (v : Word) : (s.setSp v).env = s.env := rfl
@[simp] theorem State.setSp_draws (s : State) (v : Word) : (s.setSp v).draws = s.draws := rfl
@[simp] theorem State.setSp_chip (s : State) (v : Word) : (s.setSp v).chip = s.chip := rfl

@[simp] theorem State.setCcr_regs (s : State) (v : Byte) : (s.setCcr v).regs = s.regs := rfl
@[simp] theorem State.setCcr_pc (s : State) (v : Byte) : (s.setCcr v).pc = s.pc := rfl
@[simp] theorem State.setCcr_ccr (s : State) (v : Byte) : (s.setCcr v).ccr = v := rfl
@[simp] theorem State.setCcr_mem (s : State) (v : Byte) : (s.setCcr v).mem = s.mem := rfl
@[simp] theorem State.setCcr_irqInhibit (s : State) (v : Byte) : (s.setCcr v).irqInhibit = s.irqInhibit := rfl
@[simp] theorem State.setCcr_cpuState (s : State) (v : Byte) : (s.setCcr v).cpuState = s.cpuState := rfl
@[simp] theorem State.setCcr_env (s : State) (v : Byte) : (s.setCcr v).env = s.env := rfl
@[simp] theorem State.setCcr_draws (s : State) (v : Byte) : (s.setCcr v).draws = s.draws := rfl
@[simp] theorem State.setCcr_chip (s : State) (v : Byte) : (s.setCcr v).chip = s.chip := rfl

@[simp] theorem State.advance_regs (s : State) (len : Addr) : (s.advance len).regs = s.regs := rfl
@[simp] theorem State.advance_pc (s : State) (len : Addr) : (s.advance len).pc = s.pc + len := rfl
@[simp] theorem State.advance_ccr (s : State) (len : Addr) : (s.advance len).ccr = s.ccr := rfl
@[simp] theorem State.advance_mem (s : State) (len : Addr) : (s.advance len).mem = s.mem := rfl
@[simp] theorem State.advance_irqInhibit (s : State) (len : Addr) : (s.advance len).irqInhibit = false := rfl
@[simp] theorem State.advance_cpuState (s : State) (len : Addr) : (s.advance len).cpuState = s.cpuState := rfl
@[simp] theorem State.advance_env (s : State) (len : Addr) : (s.advance len).env = s.env := rfl
@[simp] theorem State.advance_draws (s : State) (len : Addr) : (s.advance len).draws = s.draws := rfl
@[simp] theorem State.advance_chip (s : State) (len : Addr) : (s.advance len).chip = s.chip := rfl

@[simp] theorem State.advanceInhibit_regs (s : State) (len : Addr) : (s.advanceInhibit len).regs = s.regs := rfl
@[simp] theorem State.advanceInhibit_pc (s : State) (len : Addr) : (s.advanceInhibit len).pc = s.pc + len := rfl
@[simp] theorem State.advanceInhibit_ccr (s : State) (len : Addr) : (s.advanceInhibit len).ccr = s.ccr := rfl
@[simp] theorem State.advanceInhibit_mem (s : State) (len : Addr) : (s.advanceInhibit len).mem = s.mem := rfl
@[simp] theorem State.advanceInhibit_irqInhibit (s : State) (len : Addr) : (s.advanceInhibit len).irqInhibit = true := rfl
@[simp] theorem State.advanceInhibit_cpuState (s : State) (len : Addr) : (s.advanceInhibit len).cpuState = s.cpuState := rfl
@[simp] theorem State.advanceInhibit_env (s : State) (len : Addr) : (s.advanceInhibit len).env = s.env := rfl
@[simp] theorem State.advanceInhibit_draws (s : State) (len : Addr) : (s.advanceInhibit len).draws = s.draws := rfl
@[simp] theorem State.advanceInhibit_chip (s : State) (len : Addr) : (s.advanceInhibit len).chip = s.chip := rfl

@[simp] theorem State.jump_regs (s : State) (target : Addr) : (s.jump target).regs = s.regs := rfl
@[simp] theorem State.jump_pc (s : State) (target : Addr) : (s.jump target).pc = evenAddr target := rfl
@[simp] theorem State.jump_ccr (s : State) (target : Addr) : (s.jump target).ccr = s.ccr := rfl
@[simp] theorem State.jump_mem (s : State) (target : Addr) : (s.jump target).mem = s.mem := rfl
@[simp] theorem State.jump_irqInhibit (s : State) (target : Addr) : (s.jump target).irqInhibit = false := rfl
@[simp] theorem State.jump_cpuState (s : State) (target : Addr) : (s.jump target).cpuState = s.cpuState := rfl
@[simp] theorem State.jump_env (s : State) (target : Addr) : (s.jump target).env = s.env := rfl
@[simp] theorem State.jump_draws (s : State) (target : Addr) : (s.jump target).draws = s.draws := rfl
@[simp] theorem State.jump_chip (s : State) (target : Addr) : (s.jump target).chip = s.chip := rfl

@[simp] theorem State.drawn_regs (s : State) : s.drawn.regs = s.regs := rfl
@[simp] theorem State.drawn_pc (s : State) : s.drawn.pc = s.pc := rfl
@[simp] theorem State.drawn_ccr (s : State) : s.drawn.ccr = s.ccr := rfl
@[simp] theorem State.drawn_mem (s : State) : s.drawn.mem = s.mem := rfl
@[simp] theorem State.drawn_irqInhibit (s : State) : s.drawn.irqInhibit = s.irqInhibit := rfl
@[simp] theorem State.drawn_cpuState (s : State) : s.drawn.cpuState = s.cpuState := rfl
@[simp] theorem State.drawn_env (s : State) : s.drawn.env = s.env := rfl
@[simp] theorem State.drawn_draws (s : State) : s.drawn.draws = s.draws + 1 := rfl
@[simp] theorem State.drawn_chip (s : State) : s.drawn.chip = s.chip := rfl

@[simp] theorem State.putWord_regs (s : State) (a : Addr) (v : Word) : (s.putWord a v).regs = s.regs := rfl
@[simp] theorem State.putWord_pc (s : State) (a : Addr) (v : Word) : (s.putWord a v).pc = s.pc := rfl
@[simp] theorem State.putWord_ccr (s : State) (a : Addr) (v : Word) : (s.putWord a v).ccr = s.ccr := rfl
@[simp] theorem State.putWord_irqInhibit (s : State) (a : Addr) (v : Word) : (s.putWord a v).irqInhibit = s.irqInhibit := rfl
@[simp] theorem State.putWord_cpuState (s : State) (a : Addr) (v : Word) : (s.putWord a v).cpuState = s.cpuState := rfl
@[simp] theorem State.putWord_env (s : State) (a : Addr) (v : Word) : (s.putWord a v).env = s.env := rfl
@[simp] theorem State.putWord_draws (s : State) (a : Addr) (v : Word) : (s.putWord a v).draws = s.draws := rfl
@[simp] theorem State.putWord_chip (s : State) (a : Addr) (v : Word) : (s.putWord a v).chip = s.chip := rfl

@[simp] theorem State.peripheralReadDone_regs (s : State) (a : Addr) : (s.peripheralReadDone a).regs = s.regs := rfl
@[simp] theorem State.peripheralReadDone_pc (s : State) (a : Addr) : (s.peripheralReadDone a).pc = s.pc := rfl
@[simp] theorem State.peripheralReadDone_ccr (s : State) (a : Addr) : (s.peripheralReadDone a).ccr = s.ccr := rfl
@[simp] theorem State.peripheralReadDone_mem (s : State) (a : Addr) : (s.peripheralReadDone a).mem = s.mem := rfl
@[simp] theorem State.peripheralReadDone_irqInhibit (s : State) (a : Addr) : (s.peripheralReadDone a).irqInhibit = s.irqInhibit := rfl
@[simp] theorem State.peripheralReadDone_cpuState (s : State) (a : Addr) : (s.peripheralReadDone a).cpuState = s.cpuState := rfl
@[simp] theorem State.peripheralReadDone_chip (s : State) (a : Addr) : (s.peripheralReadDone a).chip = s.chip := rfl

@[simp] theorem State.consumeTick_regs (s : State) : s.consumeTick.regs = s.regs := rfl
@[simp] theorem State.consumeTick_pc (s : State) : s.consumeTick.pc = s.pc := rfl
@[simp] theorem State.consumeTick_ccr (s : State) : s.consumeTick.ccr = s.ccr := rfl
@[simp] theorem State.consumeTick_mem (s : State) : s.consumeTick.mem = s.mem := rfl
@[simp] theorem State.consumeTick_irqInhibit (s : State) : s.consumeTick.irqInhibit = s.irqInhibit := rfl
@[simp] theorem State.consumeTick_cpuState (s : State) : s.consumeTick.cpuState = s.cpuState := rfl
@[simp] theorem State.consumeTick_env (s : State) : s.consumeTick.env = { s.env with ticks := s.env.ticks.tail } := rfl
@[simp] theorem State.consumeTick_draws (s : State) : s.consumeTick.draws = s.draws := rfl
@[simp] theorem State.consumeTick_chip (s : State) : s.consumeTick.chip = s.chip := rfl

@[simp] theorem State.accepted_regs (s : State) (id : Nat) : (s.accepted id).regs = s.regs := rfl
@[simp] theorem State.accepted_pc (s : State) (id : Nat) : (s.accepted id).pc = s.pc := rfl
@[simp] theorem State.accepted_ccr (s : State) (id : Nat) : (s.accepted id).ccr = s.ccr := rfl
@[simp] theorem State.accepted_mem (s : State) (id : Nat) : (s.accepted id).mem = s.mem := rfl
@[simp] theorem State.accepted_irqInhibit (s : State) (id : Nat) : (s.accepted id).irqInhibit = s.irqInhibit := rfl
@[simp] theorem State.accepted_cpuState (s : State) (id : Nat) : (s.accepted id).cpuState = s.cpuState := rfl
@[simp] theorem State.accepted_env (s : State) (id : Nat) : (s.accepted id).env = { s.env with seen := .accepted id :: s.env.seen } := rfl
@[simp] theorem State.accepted_draws (s : State) (id : Nat) : (s.accepted id).draws = s.draws := rfl
@[simp] theorem State.accepted_chip (s : State) (id : Nat) : (s.accepted id).chip = s.chip := rfl

@[simp] theorem State.abandoned_pc (s : State) : s.abandoned.pc = evenAddr (Config.freeWord s.draws) := rfl
@[simp] theorem State.abandoned_ccr (s : State) : s.abandoned.ccr = putFlag (Config.freeCcr s.draws) .i true := rfl
@[simp] theorem State.abandoned_mem (s : State) : s.abandoned.mem = s.mem := rfl
@[simp] theorem State.abandoned_irqInhibit (s : State) : s.abandoned.irqInhibit = s.irqInhibit := rfl
@[simp] theorem State.abandoned_cpuState (s : State) : s.abandoned.cpuState = .reset := rfl
@[simp] theorem State.abandoned_env (s : State) : s.abandoned.env = s.env := rfl
@[simp] theorem State.abandoned_draws (s : State) : s.abandoned.draws = s.draws + 1 := rfl
@[simp] theorem State.abandoned_chip (s : State) : s.abandoned.chip = s.chip := rfl

@[simp] theorem State.enterReset_regs (s : State) : s.enterReset.regs = s.regs := rfl
@[simp] theorem State.enterReset_pc (s : State) : s.enterReset.pc = s.pc := rfl
@[simp] theorem State.enterReset_ccr (s : State) : s.enterReset.ccr = putFlag s.ccr .i true := rfl
@[simp] theorem State.enterReset_mem (s : State) : s.enterReset.mem = s.mem := rfl
@[simp] theorem State.enterReset_irqInhibit (s : State) : s.enterReset.irqInhibit = s.irqInhibit := rfl
@[simp] theorem State.enterReset_cpuState (s : State) : s.enterReset.cpuState = .reset := rfl
@[simp] theorem State.enterReset_env (s : State) : s.enterReset.env = s.env := rfl
@[simp] theorem State.enterReset_draws (s : State) : s.enterReset.draws = s.draws := rfl
@[simp] theorem State.enterReset_chip (s : State) : s.enterReset.chip = s.chip := rfl

@[simp] theorem State.setR16_flag (s : State) (n : Reg16) (v : Word) (f : Flag) : (s.setR16 n v).flag f = s.flag f := rfl
@[simp] theorem State.setR16_kindAt (s : State) (n : Reg16) (v : Word) (b : Addr) : (s.setR16 n v).kindAt b = s.kindAt b := rfl
@[simp] theorem State.setR16_npc (s : State) (n : Reg16) (v : Word) (k : Addr) : (s.setR16 n v).npc k = s.npc k := rfl
@[simp] theorem State.setR8_flag (s : State) (c : Reg8) (v : Byte) (f : Flag) : (s.setR8 c v).flag f = s.flag f := rfl
@[simp] theorem State.setR8_kindAt (s : State) (c : Reg8) (v : Byte) (b : Addr) : (s.setR8 c v).kindAt b = s.kindAt b := rfl
@[simp] theorem State.setR8_npc (s : State) (c : Reg8) (v : Byte) (k : Addr) : (s.setR8 c v).npc k = s.npc k := rfl
@[simp] theorem State.setSp_flag (s : State) (v : Word) (f : Flag) : (s.setSp v).flag f = s.flag f := rfl
@[simp] theorem State.setSp_kindAt (s : State) (v : Word) (b : Addr) : (s.setSp v).kindAt b = s.kindAt b := rfl
@[simp] theorem State.setSp_npc (s : State) (v : Word) (k : Addr) : (s.setSp v).npc k = s.npc k := rfl
@[simp] theorem State.setCcr_r16 (s : State) (v : Byte) (m : Reg16) : (s.setCcr v).r16 m = s.r16 m := rfl
@[simp] theorem State.setCcr_r8 (s : State) (v : Byte) (k : Reg8) : (s.setCcr v).r8 k = s.r8 k := rfl
@[simp] theorem State.setCcr_kindAt (s : State) (v : Byte) (b : Addr) : (s.setCcr v).kindAt b = s.kindAt b := rfl
@[simp] theorem State.setCcr_npc (s : State) (v : Byte) (k : Addr) : (s.setCcr v).npc k = s.npc k := rfl
@[simp] theorem State.advance_r16 (s : State) (len : Addr) (m : Reg16) : (s.advance len).r16 m = s.r16 m := rfl
@[simp] theorem State.advance_r8 (s : State) (len : Addr) (k : Reg8) : (s.advance len).r8 k = s.r8 k := rfl
@[simp] theorem State.advance_flag (s : State) (len : Addr) (f : Flag) : (s.advance len).flag f = s.flag f := rfl
@[simp] theorem State.advance_kindAt (s : State) (len : Addr) (b : Addr) : (s.advance len).kindAt b = s.kindAt b := rfl
@[simp] theorem State.advanceInhibit_r16 (s : State) (len : Addr) (m : Reg16) : (s.advanceInhibit len).r16 m = s.r16 m := rfl
@[simp] theorem State.advanceInhibit_r8 (s : State) (len : Addr) (k : Reg8) : (s.advanceInhibit len).r8 k = s.r8 k := rfl
@[simp] theorem State.advanceInhibit_flag (s : State) (len : Addr) (f : Flag) : (s.advanceInhibit len).flag f = s.flag f := rfl
@[simp] theorem State.advanceInhibit_kindAt (s : State) (len : Addr) (b : Addr) : (s.advanceInhibit len).kindAt b = s.kindAt b := rfl
@[simp] theorem State.jump_r16 (s : State) (target : Addr) (m : Reg16) : (s.jump target).r16 m = s.r16 m := rfl
@[simp] theorem State.jump_r8 (s : State) (target : Addr) (k : Reg8) : (s.jump target).r8 k = s.r8 k := rfl
@[simp] theorem State.jump_flag (s : State) (target : Addr) (f : Flag) : (s.jump target).flag f = s.flag f := rfl
@[simp] theorem State.jump_kindAt (s : State) (target : Addr) (b : Addr) : (s.jump target).kindAt b = s.kindAt b := rfl
@[simp] theorem State.drawn_r16 (s : State) (m : Reg16) : s.drawn.r16 m = s.r16 m := rfl
@[simp] theorem State.drawn_r8 (s : State) (k : Reg8) : s.drawn.r8 k = s.r8 k := rfl
@[simp] theorem State.drawn_flag (s : State) (f : Flag) : s.drawn.flag f = s.flag f := rfl
@[simp] theorem State.drawn_kindAt (s : State) (b : Addr) : s.drawn.kindAt b = s.kindAt b := rfl
@[simp] theorem State.drawn_npc (s : State) (k : Addr) : s.drawn.npc k = s.npc k := rfl
@[simp] theorem State.putWord_r16 (s : State) (a : Addr) (v : Word) (m : Reg16) : (s.putWord a v).r16 m = s.r16 m := rfl
@[simp] theorem State.putWord_r8 (s : State) (a : Addr) (v : Word) (k : Reg8) : (s.putWord a v).r8 k = s.r8 k := rfl
@[simp] theorem State.putWord_flag (s : State) (a : Addr) (v : Word) (f : Flag) : (s.putWord a v).flag f = s.flag f := rfl
@[simp] theorem State.putWord_kindAt (s : State) (a : Addr) (v : Word) (b : Addr) : (s.putWord a v).kindAt b = s.kindAt b := rfl
@[simp] theorem State.putWord_npc (s : State) (a : Addr) (v : Word) (k : Addr) : (s.putWord a v).npc k = s.npc k := rfl
@[simp] theorem State.peripheralReadDone_r16 (s : State) (a : Addr) (m : Reg16) : (s.peripheralReadDone a).r16 m = s.r16 m := rfl
@[simp] theorem State.peripheralReadDone_r8 (s : State) (a : Addr) (k : Reg8) : (s.peripheralReadDone a).r8 k = s.r8 k := rfl
@[simp] theorem State.peripheralReadDone_flag (s : State) (a : Addr) (f : Flag) : (s.peripheralReadDone a).flag f = s.flag f := rfl
@[simp] theorem State.peripheralReadDone_kindAt (s : State) (a : Addr) (b : Addr) : (s.peripheralReadDone a).kindAt b = s.kindAt b := rfl
@[simp] theorem State.peripheralReadDone_npc (s : State) (a : Addr) (k : Addr) : (s.peripheralReadDone a).npc k = s.npc k := rfl
@[simp] theorem State.consumeTick_r16 (s : State) (m : Reg16) : s.consumeTick.r16 m = s.r16 m := rfl
@[simp] theorem State.consumeTick_r8 (s : State) (k : Reg8) : s.consumeTick.r8 k = s.r8 k := rfl
@[simp] theorem State.consumeTick_flag (s : State) (f : Flag) : s.consumeTick.flag f = s.flag f := rfl
@[simp] theorem State.consumeTick_kindAt (s : State) (b : Addr) : s.consumeTick.kindAt b = s.kindAt b := rfl
@[simp] theorem State.consumeTick_npc (s : State) (k : Addr) : s.consumeTick.npc k = s.npc k := rfl
@[simp] theorem State.accepted_r16 (s : State) (id : Nat) (m : Reg16) : (s.accepted id).r16 m = s.r16 m := rfl
@[simp] theorem State.accepted_r8 (s : State) (id : Nat) (k : Reg8) : (s.accepted id).r8 k = s.r8 k := rfl
@[simp] theorem State.accepted_flag (s : State) (id : Nat) (f : Flag) : (s.accepted id).flag f = s.flag f := rfl
@[simp] theorem State.accepted_kindAt (s : State) (id : Nat) (b : Addr) : (s.accepted id).kindAt b = s.kindAt b := rfl
@[simp] theorem State.accepted_npc (s : State) (id : Nat) (k : Addr) : (s.accepted id).npc k = s.npc k := rfl
@[simp] theorem State.abandoned_kindAt (s : State) (b : Addr) : s.abandoned.kindAt b = s.kindAt b := rfl
@[simp] theorem State.enterReset_r16 (s : State) (m : Reg16) : s.enterReset.r16 m = s.r16 m := rfl
@[simp] theorem State.enterReset_r8 (s : State) (k : Reg8) : s.enterReset.r8 k = s.r8 k := rfl
@[simp] theorem State.enterReset_kindAt (s : State) (b : Addr) : s.enterReset.kindAt b = s.kindAt b := rfl
@[simp] theorem State.enterReset_npc (s : State) (k : Addr) : s.enterReset.npc k = s.npc k := rfl

@[simp] theorem State.setCcr_flag (s : State) (v : Byte) (f : Flag) : (s.setCcr v).flag f = getFlag v f := rfl

end Sys2Proof.Machine
end

