-- ==== Sys2Proof/Laws/Registers.lean ====
section
/-! SUPPORT. Registers and CCR bits: what a read gives after a write, at both widths (spec/10_state.md R31, R36). -/

namespace Sys2Proof.Machine

/-! ### Bytes of a word -/

theorem joinBytes_toNat (h l : Byte) : (joinBytes h l).toNat = h.toNat * 256 + l.toNat := by
  have hl := l.isLt
  have e : (joinBytes h l).toNat = h.toNat <<< 8 ||| l.toNat := BitVec.toNat_append h l
  rw [e, ← Nat.shiftLeft_add_eq_or_of_lt (by simpa using hl), Nat.shiftLeft_eq]

theorem hiByte_toNat (w : Word) : (hiByte w).toNat = w.toNat / 256 := by
  have := w.isLt
  simp only [hiByte, BitVec.extractLsb'_toNat, Nat.shiftRight_eq_div_pow]
  omega

theorem loByte_toNat (w : Word) : (loByte w).toNat = w.toNat % 256 := by
  simp [loByte, BitVec.extractLsb'_toNat]

@[simp] theorem hiByte_joinBytes (h l : Byte) : hiByte (joinBytes h l) = h := by
  have hl := l.isLt
  apply BitVec.eq_of_toNat_eq
  rw [hiByte_toNat, joinBytes_toNat]
  omega

@[simp] theorem loByte_joinBytes (h l : Byte) : loByte (joinBytes h l) = l := by
  have hl := l.isLt
  apply BitVec.eq_of_toNat_eq
  rw [loByte_toNat, joinBytes_toNat]
  omega

@[simp] theorem joinBytes_hi_lo (w : Word) : joinBytes (hiByte w) (loByte w) = w := by
  apply BitVec.eq_of_toNat_eq
  rw [joinBytes_toNat, hiByte_toNat, loByte_toNat]
  omega

/-! ### General registers -/

theorem r16_setR16 (s : State) (n m : Reg16) (v : Word) : (s.setR16 n v).r16 m = if m = n then v else s.r16 m := by
  simp only [State.r16, State.setR16, Vector.getElem_set]
  by_cases h : m = n
  · subst h; simp
  · have : ¬ n.toNat = m.toNat := fun e => h (BitVec.eq_of_toNat_eq e.symm)
    simp [h, this]

@[simp] theorem r16_setR16_same (s : State) (n : Reg16) (v : Word) : (s.setR16 n v).r16 n = v := by simp [r16_setR16]

theorem r16_setR16_other (s : State) {n m : Reg16} (v : Word) (h : m ≠ n) : (s.setR16 n v).r16 m = s.r16 m := by
  simp [r16_setR16, h]

/-- Two 8-bit codes with the same number and the same half are equal. -/
theorem reg8_ext {c d : Reg8} (h1 : regOf c = regOf d) (h2 : isLowHalf c = isLowHalf d) : c = d := by
  revert c d; decide

theorem r8_setR8 (s : State) (c d : Reg8) (v : Byte) : (s.setR8 c v).r8 d = if d = c then v else s.r8 d := by
  by_cases hd : d = c
  · subst hd
    simp only [State.r8, State.setR8, r16_setR16_same, if_true]
    split <;> simp_all
  · simp only [hd, if_false, State.r8, State.setR8, r16_setR16]
    by_cases hr : regOf d = regOf c
    · have hh : isLowHalf d ≠ isLowHalf c := fun e => hd (reg8_ext hr e)
      simp only [hr, if_true]
      cases h1 : isLowHalf c <;> cases h2 : isLowHalf d <;> simp_all
    · simp [hr]

@[simp] theorem r8_setR8_same (s : State) (c : Reg8) (v : Byte) : (s.setR8 c v).r8 c = v := by simp [r8_setR8]

theorem r8_setR8_other (s : State) {c d : Reg8} (v : Byte) (h : d ≠ c) : (s.setR8 c v).r8 d = s.r8 d := by
  simp [r8_setR8, h]

theorem r8_setR16 (s : State) (n : Reg16) (d : Reg8) (v : Word) :
    (s.setR16 n v).r8 d = if regOf d = n then (if isLowHalf d then loByte v else hiByte v) else s.r8 d := by
  simp only [State.r8, r16_setR16]
  by_cases h : regOf d = n <;> simp [h]

theorem r16_setR8 (s : State) (c : Reg8) (m : Reg16) (v : Byte) : (s.setR8 c v).r16 m =
    if m = regOf c then (if isLowHalf c then joinBytes (hiByte (s.r16 m)) v else joinBytes v (loByte (s.r16 m)))
    else s.r16 m := by
  simp only [State.setR8, r16_setR16]
  split
  · rename_i h; subst h; rfl
  · rfl

@[simp] theorem setR16_flag (s : State) (n : Reg16) (v : Word) (f : Flag) : (s.setR16 n v).flag f = s.flag f := rfl

@[simp] theorem regOf_nibbleOf (t : Bool) (n : Reg16) : regOf (nibbleOf t n) = n := by revert t n; decide

@[simp] theorem isLowHalf_nibbleOf (t : Bool) (n : Reg16) : isLowHalf (nibbleOf t n) = t := by revert t n; decide

@[simp] theorem nibbleOf_parts (c : Reg8) : nibbleOf (isLowHalf c) (regOf c) = c := by revert c; decide

/-- The word of a register is its halves (R31). -/
theorem r16_eq_halves (s : State) (n : Reg16) : s.r16 n = joinBytes (s.r8 (nibbleOf false n)) (s.r8 (nibbleOf true n)) := by
  simp [State.r8]

/-- The halves of a register are the codes that number it. -/
theorem mem_halves (c : Reg8) (n : Reg16) : c ∈ [nibbleOf false n, nibbleOf true n] ↔ regOf c = n := by
  revert c n; decide

/-! ### CCR bits -/

theorem getLsbD_putBit (b : Byte) (k j : Nat) (on : Bool) (hk : k < 8) :
    (putBit b k on).getLsbD j = if j = k then on else b.getLsbD j := by
  have hm : (bitMask k).getLsbD j = decide (j = k) := by
    have : ∀ k : Fin 8, ∀ j : Fin 8, (bitMask k.val).getLsbD j.val = decide (j.val = k.val) := by decide
    by_cases hj : j < 8
    · exact this ⟨k, hk⟩ ⟨j, hj⟩
    · rw [BitVec.getLsbD_of_ge _ _ (by omega)]; simp; omega
  unfold putBit
  cases on
  · simp only [Bool.false_eq_true, if_false, BitVec.getLsbD_and, BitVec.getLsbD_not, hm]
    by_cases h : j = k
    · simp [h]
    · by_cases hj : j < 8
      · simp [h, hj]
      · simp [h, BitVec.getLsbD_of_ge b j (by omega)]
  · simp only [if_true, BitVec.getLsbD_or, hm]
    by_cases h : j = k <;> simp [h]

theorem flag_index_inj (f g : Flag) : f.index = g.index ↔ f = g := by cases f <;> cases g <;> decide

theorem flag_index_lt (f : Flag) : f.index < 8 := by cases f <;> decide

/-- A flag write is read back and changes no other flag. -/
@[simp] theorem getFlag_putFlag (ccr : Byte) (f g : Flag) (v : Bool) :
    getFlag (putFlag ccr f v) g = if g = f then v else getFlag ccr g := by
  simp only [getFlag, putFlag, getLsbD_putBit _ _ _ _ (flag_index_lt f), flag_index_inj]

/-- The CCR is its eight bits. -/
theorem ccr_ext {a b : Byte} (h : ∀ f, getFlag a f = getFlag b f) : a = b := by
  apply BitVec.eq_of_getLsbD_eq
  intro i hi
  have : i = 0 ∨ i = 1 ∨ i = 2 ∨ i = 3 ∨ i = 4 ∨ i = 5 ∨ i = 6 ∨ i = 7 := by omega
  rcases this with rfl | rfl | rfl | rfl | rfl | rfl | rfl | rfl
  · exact h .c
  · exact h .v
  · exact h .z
  · exact h .n
  · exact h .u4
  · exact h .h
  · exact h .u6
  · exact h .i

/-- Free flags are exactly the listed ones. -/
theorem getFlag_freeFlags (ccr : Byte) (fs : List Flag) (d : Nat) (g : Flag) :
    getFlag (freeFlags ccr fs d) g = if g ∈ fs then getFlag (Config.freeCcr d) g else getFlag ccr g := by
  have key : ∀ (l : List Flag) (c : Byte),
      getFlag (l.foldl (fun c f => putFlag c f (getFlag (Config.freeCcr d) f)) c) g =
        if g ∈ l then getFlag (Config.freeCcr d) g else getFlag c g := by
    intro l
    induction l with
    | nil => intro c; simp
    | cons f l ih =>
      intro c
      simp only [List.foldl_cons, ih, getFlag_putFlag, List.mem_cons]
      by_cases h1 : g ∈ l
      · simp [h1]
      · by_cases h2 : g = f
        · subst h2; simp
        · simp [h1, h2]
  exact key fs ccr

theorem getFlag_putHNZVC {w : Nat} (ccr : Byte) (a : AluResult w) (g : Flag) : getFlag (putHNZVC ccr a) g =
    match g with
    | .h => a.h | .n => a.n | .z => a.z | .v => a.v | .c => a.c
    | .i => getFlag ccr .i | .u6 => getFlag ccr .u6 | .u4 => getFlag ccr .u4 := by
  cases g <;> simp [putHNZVC]

theorem getFlag_putHNZVCStickyZ {w : Nat} (ccr : Byte) (a : AluResult w) (g : Flag) : getFlag (putHNZVCStickyZ ccr a) g =
    match g with
    | .h => a.h | .n => a.n | .z => a.z && getFlag ccr .z | .v => a.v | .c => a.c
    | .i => getFlag ccr .i | .u6 => getFlag ccr .u6 | .u4 => getFlag ccr .u4 := by
  cases g <;> simp [putHNZVCStickyZ, putHNZVC]

theorem getFlag_putNZ {w : Nat} (ccr : Byte) (r : BitVec w) (g : Flag) : getFlag (putNZ ccr r) g =
    match g with
    | .n => r.msb | .z => r == 0#w | .h => getFlag ccr .h | .v => getFlag ccr .v | .c => getFlag ccr .c
    | .i => getFlag ccr .i | .u6 => getFlag ccr .u6 | .u4 => getFlag ccr .u4 := by
  cases g <;> simp [putNZ]

theorem getFlag_putNZV {w : Nat} (ccr : Byte) (r : BitVec w) (v : Bool) (g : Flag) : getFlag (putNZV ccr r v) g =
    match g with
    | .n => r.msb | .z => r == 0#w | .h => getFlag ccr .h | .v => v | .c => getFlag ccr .c
    | .i => getFlag ccr .i | .u6 => getFlag ccr .u6 | .u4 => getFlag ccr .u4 := by
  cases g <;> simp [putNZV, getFlag_putNZ]

theorem getFlag_putNZVC (ccr : Byte) (r : Byte) (v c : Bool) (g : Flag) : getFlag (putNZVC ccr r v c) g =
    match g with
    | .n => r.msb | .z => r == 0#8 | .h => getFlag ccr .h | .v => v | .c => c
    | .i => getFlag ccr .i | .u6 => getFlag ccr .u6 | .u4 => getFlag ccr .u4 := by
  cases g <;> simp [putNZVC, getFlag_putNZV]

end Sys2Proof.Machine
end

