-- ==== Sys2Proof/Laws/Ops.lean ====
section
/-! SUPPORT. For each shared operation, once, all it can do. -/

namespace Sys2Proof.Machine

/-! ### Results -/

@[simp] theorem finish_ok (s : State) : finish (.ok s) = .next s := rfl

@[simp] theorem finish_error (e : Refusal) : finish (.error e) = .refused e := rfl

/-- A step that ends in a next state had a result. -/
theorem finish_next_iff {r : Res State} {t : State} : finish r = .next t ↔ r = .ok t := by
  cases r <;> simp [finish]

@[simp] theorem res_ok_bind {α β : Type} (a : α) (f : α → Res β) : ((Except.ok a : Res α) >>= f) = f a := rfl

@[simp] theorem res_error_bind {α β : Type} (e : Refusal) (f : α → Res β) : ((Except.error e : Res α) >>= f) = .error e := rfl

/-- A sequence of two operations has a result when both have. -/
theorem res_bind_ok_iff {α β : Type} {r : Res α} {f : α → Res β} {b : β} :
    (r >>= f) = .ok b ↔ ∃ a, r = .ok a ∧ f a = .ok b := by
  cases r <;> simp

/-! ### Regions -/

theorem isOnChip_iff (s : State) (a : Addr) : (s.kindAt a).isOnChip = true ↔ IsMemory s a := by
  unfold IsMemory
  cases h : s.kindAt a <;> simp [RegionKind.isOnChip]

theorem isRam_iff (s : State) (a : Addr) : (s.kindAt a).isRam = true ↔ IsRam s a := by
  unfold IsRam
  cases h : s.kindAt a <;> simp [RegionKind.isRam]

theorem isPeripheral_iff (s : State) (a : Addr) : (s.kindAt a).isPeripheral = true ↔ IsPeripheral s a := by
  unfold IsPeripheral
  cases h : s.kindAt a <;> simp [RegionKind.isPeripheral]

theorem IsMemory.not_peripheral {s : State} {a : Addr} (h : IsMemory s a) : (s.kindAt a).isPeripheral = false := by
  obtain ⟨w, h⟩ := h; rw [h]; rfl

theorem IsRam.isMemory {s : State} {a : Addr} (h : IsRam s a) : IsMemory s a := ⟨true, h⟩

theorem canReadByte_iff (s : State) (a : Addr) : s.canReadByte a = true ↔ IsMemory s a ∨ IsPeripheral s a := by
  simp [State.canReadByte, RegionKind.byteReadable, isOnChip_iff, isPeripheral_iff]

theorem canWriteByte_iff (s : State) (a : Addr) : s.canWriteByte a = true ↔ IsRam s a ∨ IsPeripheral s a := by
  simp [State.canWriteByte, RegionKind.byteWritable, isRam_iff, isPeripheral_iff]

theorem canReadWord_iff (s : State) (a : Addr) : s.canReadWord a = true ↔ WordReadable s a := by
  simp [State.canReadWord, WordReadable, wordBytes, isOnChip_iff]

theorem canWriteWord_iff (s : State) (a : Addr) : s.canWriteWord a = true ↔ WordWritable s a := by
  simp [State.canWriteWord, WordWritable, wordBytes, isRam_iff]

/-! ### Byte access -/

theorem readByte_ok_iff {s : State} {a : Addr} {v : Byte} {t : State} : s.readByte a = .ok (v, t) ↔
    (IsMemory s a ∨ IsPeripheral s a) ∧ v = s.byteAt a ∧ t = s.afterRead a := by
  rw [← canReadByte_iff]
  unfold State.readByte
  split
  · rename_i h
    simp only [h, true_and, Except.ok.injEq, Prod.mk.injEq]
    constructor <;> rintro ⟨rfl, rfl⟩ <;> exact ⟨rfl, rfl⟩
  · rename_i h
    simp [h]

theorem readByte_memory {s : State} {a : Addr} (h : IsMemory s a) : s.readByte a = .ok (s.mem8 a, s) := by
  simp [State.readByte, (canReadByte_iff s a).mpr (.inl h), State.byteAt, State.afterRead, h.not_peripheral, State.mem8]

theorem readByte_peripheral {s : State} {a : Addr} (h : IsPeripheral s a) :
    s.readByte a = .ok (s.peripheralAnswer, s.peripheralReadDone a) := by
  simp [State.readByte, (canReadByte_iff s a).mpr (.inr h), State.byteAt, State.afterRead, (isPeripheral_iff s a).mpr h]

@[simp] theorem afterRead_regs (s : State) (a : Addr) : (s.afterRead a).regs = s.regs := by unfold State.afterRead; split <;> rfl
@[simp] theorem afterRead_pc (s : State) (a : Addr) : (s.afterRead a).pc = s.pc := by unfold State.afterRead; split <;> rfl
@[simp] theorem afterRead_ccr (s : State) (a : Addr) : (s.afterRead a).ccr = s.ccr := by unfold State.afterRead; split <;> rfl
@[simp] theorem afterRead_mem (s : State) (a : Addr) : (s.afterRead a).mem = s.mem := by unfold State.afterRead; split <;> rfl
@[simp] theorem afterRead_irqInhibit (s : State) (a : Addr) : (s.afterRead a).irqInhibit = s.irqInhibit := by
  unfold State.afterRead; split <;> rfl
@[simp] theorem afterRead_cpuState (s : State) (a : Addr) : (s.afterRead a).cpuState = s.cpuState := by
  unfold State.afterRead; split <;> rfl
@[simp] theorem afterRead_chip (s : State) (a : Addr) : (s.afterRead a).chip = s.chip := by unfold State.afterRead; split <;> rfl
@[simp] theorem afterRead_ticks (s : State) (a : Addr) : (s.afterRead a).env.ticks = s.env.ticks := by
  unfold State.afterRead; split <;> rfl
@[simp] theorem afterRead_r16 (s : State) (a : Addr) (n : Reg16) : (s.afterRead a).r16 n = s.r16 n := by
  unfold State.afterRead; split <;> rfl
@[simp] theorem afterRead_r8 (s : State) (a : Addr) (c : Reg8) : (s.afterRead a).r8 c = s.r8 c := by
  unfold State.afterRead; split <;> rfl
@[simp] theorem afterRead_flag (s : State) (a : Addr) (f : Flag) : (s.afterRead a).flag f = s.flag f := by
  unfold State.afterRead; split <;> rfl
@[simp] theorem afterRead_npc (s : State) (a k : Addr) : (s.afterRead a).npc k = s.npc k := by
  unfold State.afterRead; split <;> rfl
@[simp] theorem afterRead_kindAt (s : State) (a b : Addr) : (s.afterRead a).kindAt b = s.kindAt b := by
  unfold State.afterRead; split <;> rfl

/-! ### Byte stores -/

theorem imminent_iff (npc a : Addr) : imminent npc a = false ↔ NotImminent npc a := by
  simp only [imminent, NotImminent, decide_eq_false_iff_not]
  have key : ∀ k : BitVec 16, k.toNat < 4 ↔ k = 0#16 ∨ k = 1#16 ∨ k = 2#16 ∨ k = 3#16 := by
    intro k
    constructor
    · intro h
      have : k.toNat = 0 ∨ k.toNat = 1 ∨ k.toNat = 2 ∨ k.toNat = 3 := by omega
      rcases this with h | h | h | h
      · exact .inl (BitVec.eq_of_toNat_eq h)
      · exact .inr (.inl (BitVec.eq_of_toNat_eq h))
      · exact .inr (.inr (.inl (BitVec.eq_of_toNat_eq h)))
      · exact .inr (.inr (.inr (BitVec.eq_of_toNat_eq h)))
    · rintro (rfl | rfl | rfl | rfl) <;> decide
  have sub : ∀ k : BitVec 16, a - npc = k ↔ a = npc + k := by
    intro k
    rw [sub_eq_iff_eq_add, BitVec.add_comm]
  have zero : npc + 0#16 = npc := by simp
  rw [key, sub, sub, sub, sub, zero]
  simp only [not_or]

theorem writeByte_ok_iff {s t : State} {a : Addr} {v : Byte} : s.writeByte a v = .ok t ↔
    (IsRam s a ∨ IsPeripheral s a) ∧ t = s.afterWrite a v := by
  rw [← canWriteByte_iff]
  unfold State.writeByte
  split
  · rename_i h
    simp only [h, true_and, Except.ok.injEq]
    exact eq_comm
  · rename_i h
    simp [h]

/-- A byte store that has a result reached no imminent byte, and wrote memory or told a peripheral. -/
theorem storeByte_ok_iff {s t : State} {npc a : Addr} {v : Byte} : s.storeByte npc a v = .ok t ↔
    NotImminent npc a ∧ (IsRam s a ∨ IsPeripheral s a) ∧ t = s.afterWrite a v := by
  rw [← imminent_iff, ← writeByte_ok_iff]
  unfold State.storeByte
  split <;> simp_all

theorem storeByte_ram {s : State} {npc a : Addr} (v : Byte) (h : ByteStorable s npc a) :
    s.storeByte npc a v = .ok { s with mem := Memory.write s.mem a.toNat v } :=
  storeByte_ok_iff.mpr ⟨h.2, .inl h.1, by simp [State.afterWrite, h.1.isMemory.not_peripheral]⟩

theorem storeByte_peripheral {s : State} {npc a : Addr} (v : Byte) (h : IsPeripheral s a) (hn : NotImminent npc a) :
    s.storeByte npc a v = .ok { s with env := { s.env with seen := .write a v :: s.env.seen } } :=
  storeByte_ok_iff.mpr ⟨hn, .inr h, by simp [State.afterWrite, (isPeripheral_iff s a).mpr h]⟩

@[simp] theorem afterWrite_regs (s : State) (a : Addr) (v : Byte) : (s.afterWrite a v).regs = s.regs := by
  unfold State.afterWrite; split <;> rfl
@[simp] theorem afterWrite_pc (s : State) (a : Addr) (v : Byte) : (s.afterWrite a v).pc = s.pc := by
  unfold State.afterWrite; split <;> rfl
@[simp] theorem afterWrite_ccr (s : State) (a : Addr) (v : Byte) : (s.afterWrite a v).ccr = s.ccr := by
  unfold State.afterWrite; split <;> rfl
@[simp] theorem afterWrite_irqInhibit (s : State) (a : Addr) (v : Byte) : (s.afterWrite a v).irqInhibit = s.irqInhibit := by
  unfold State.afterWrite; split <;> rfl
@[simp] theorem afterWrite_cpuState (s : State) (a : Addr) (v : Byte) : (s.afterWrite a v).cpuState = s.cpuState := by
  unfold State.afterWrite; split <;> rfl
@[simp] theorem afterWrite_draws (s : State) (a : Addr) (v : Byte) : (s.afterWrite a v).draws = s.draws := by
  unfold State.afterWrite; split <;> rfl
@[simp] theorem afterWrite_chip (s : State) (a : Addr) (v : Byte) : (s.afterWrite a v).chip = s.chip := by
  unfold State.afterWrite; split <;> rfl
@[simp] theorem afterWrite_ticks (s : State) (a : Addr) (v : Byte) : (s.afterWrite a v).env.ticks = s.env.ticks := by
  unfold State.afterWrite; split <;> rfl
@[simp] theorem afterWrite_r16 (s : State) (a : Addr) (v : Byte) (n : Reg16) : (s.afterWrite a v).r16 n = s.r16 n := by
  unfold State.afterWrite; split <;> rfl
@[simp] theorem afterWrite_r8 (s : State) (a : Addr) (v : Byte) (c : Reg8) : (s.afterWrite a v).r8 c = s.r8 c := by
  unfold State.afterWrite; split <;> rfl
@[simp] theorem afterWrite_flag (s : State) (a : Addr) (v : Byte) (f : Flag) : (s.afterWrite a v).flag f = s.flag f := by
  unfold State.afterWrite; split <;> rfl
@[simp] theorem afterWrite_npc (s : State) (a k : Addr) (v : Byte) : (s.afterWrite a v).npc k = s.npc k := by
  unfold State.afterWrite; split <;> rfl
@[simp] theorem afterWrite_kindAt (s : State) (a b : Addr) (v : Byte) : (s.afterWrite a v).kindAt b = s.kindAt b := by
  unfold State.afterWrite; split <;> rfl

theorem afterWrite_wf (s : State) (a : Addr) (v : Byte) (h : Memory.wf s.mem = true) :
    Memory.wf (s.afterWrite a v).mem = true := by
  unfold State.afterWrite; split
  · exact h
  · exact Memory.wf_write _ _ _ h a.isLt

/-- A byte write changes no other byte of memory. -/
theorem afterWrite_mem8_other (s : State) {a b : Addr} (v : Byte) (h : b ≠ a) : (s.afterWrite a v).mem8 b = s.mem8 b := by
  unfold State.afterWrite State.mem8; split
  · rfl
  · exact Memory.read_write_other _ _ (fun e => h (BitVec.eq_of_toNat_eq e.symm))

theorem mem8_write (s : State) (a b : Addr) (v : Byte) :
    ({ s with mem := Memory.write s.mem a.toNat v } : State).mem8 b = if b = a then v else s.mem8 b := by
  simp only [State.mem8, Memory.read_write]
  by_cases h : b = a
  · simp [h]
  · have : ¬ a.toNat = b.toNat := fun e => h (BitVec.eq_of_toNat_eq e.symm)
    simp [h, this]

/-! ### Words -/

theorem evenAddr_succ_ne (a : Addr) : evenAddr a + 1#16 ≠ evenAddr a := by
  intro h
  simp at h

theorem evenAddr_toNat (a : Addr) : (evenAddr a).toNat = a.toNat / 2 * 2 := by
  have key : ∀ n : Nat, n < 65536 → n &&& 0xFFFE = n / 2 * 2 := by
    intro n hn
    apply Nat.eq_of_testBit_eq
    intro i
    rw [show n / 2 * 2 = (n >>> 1) <<< 1 by simp [Nat.shiftLeft_eq, Nat.shiftRight_eq_div_pow]]
    rw [Nat.testBit_and, Nat.testBit_shiftLeft, Nat.testBit_shiftRight]
    rw [show (0xFFFE : Nat) = (2 ^ 15 - 1) <<< 1 by decide, Nat.testBit_shiftLeft, Nat.testBit_two_pow_sub_one]
    by_cases h0 : 1 ≤ i
    · by_cases h1 : i < 16
      · have h2 : i - 1 < 15 := by omega
        simp [h0, h2, show 1 + (i - 1) = i by omega]
      · have : n.testBit i = false := Nat.testBit_lt_two_pow (Nat.lt_of_lt_of_le hn (by
          exact Nat.pow_le_pow_right (n := 2) (by decide) (show 16 ≤ i by omega)))
        simp [this, show 1 + (i - 1) = i by omega]
    · simp [h0]
  simp only [evenAddr, BitVec.toNat_and]
  exact key _ a.isLt

@[simp] theorem evenAddr_bit0 (a : Addr) : (evenAddr a).getLsbD 0 = false := by simp [evenAddr]

@[simp] theorem evenAddr_evenAddr (a : Addr) : evenAddr (evenAddr a) = evenAddr a := by
  apply BitVec.eq_of_toNat_eq; simp only [evenAddr_toNat]; omega

theorem evenAddr_of_even {a : Addr} (h : a.getLsbD 0 = false) : evenAddr a = a := by
  apply BitVec.eq_of_toNat_eq
  have : a.toNat % 2 = 0 := by
    rw [BitVec.getLsbD, Nat.testBit_zero] at h
    simpa using h
  rw [evenAddr_toNat]; omega

theorem readWord_ok_iff {s : State} {a : Addr} {v : Word} : s.readWord a = .ok v ↔ WordReadable s a ∧ v = s.mem16 a := by
  rw [← canReadWord_iff]
  unfold State.readWord
  split
  · rename_i h
    simp only [h, true_and, Except.ok.injEq]
    exact eq_comm
  · rename_i h
    simp [h]

theorem readWord_of {s : State} {a : Addr} (h : WordReadable s a) : s.readWord a = .ok (s.mem16 a) :=
  readWord_ok_iff.mpr ⟨h, rfl⟩

theorem writeWord_ok_iff {s t : State} {a : Addr} {v : Word} : s.writeWord a v = .ok t ↔
    WordWritable s a ∧ t = s.putWord a v := by
  rw [← canWriteWord_iff]
  unfold State.writeWord
  split
  · rename_i h
    simp only [h, true_and, Except.ok.injEq]
    exact eq_comm
  · rename_i h
    simp [h]

theorem imminentWord_iff (npc a : Addr) : imminentWord npc a = false ↔ ∀ b ∈ wordBytes a, NotImminent npc b := by
  simp [imminentWord, imminent_iff, wordBytes]

/-- A word store that has a result reached no imminent byte and wrote both bytes. -/
theorem storeWord_ok_iff {s t : State} {npc a : Addr} {v : Word} : s.storeWord npc a v = .ok t ↔
    WordStorable s npc a ∧ t = s.putWord a v := by
  have : WordStorable s npc a ↔ imminentWord npc a = false ∧ WordWritable s a := by
    rw [imminentWord_iff]; simp [WordStorable, WordWritable, wordBytes]; tauto
  rw [this, and_assoc, ← writeWord_ok_iff]
  unfold State.storeWord
  split <;> simp_all

theorem storeWord_of {s : State} {npc a : Addr} (v : Word) (h : WordStorable s npc a) :
    s.storeWord npc a v = .ok (s.putWord a v) := storeWord_ok_iff.mpr ⟨h, rfl⟩

theorem writeWord_of {s : State} {a : Addr} (v : Word) (h : WordWritable s a) :
    s.writeWord a v = .ok (s.putWord a v) := writeWord_ok_iff.mpr ⟨h, rfl⟩

theorem mem8_putWord (s : State) (a b : Addr) (v : Word) : (s.putWord a v).mem8 b =
    if b = evenAddr a then hiByte v else if b = evenAddr a + 1#16 then loByte v else s.mem8 b := by
  have toNat_eq : ∀ x : Addr, x.toNat = b.toNat ↔ b = x := fun x => ⟨fun e => (BitVec.eq_of_toNat_eq e).symm, fun e => e ▸ rfl⟩
  simp only [State.putWord, State.mem8, Memory.read_write, toNat_eq]
  by_cases h1 : b = evenAddr a
  · rw [if_pos h1, if_pos h1, if_neg (fun e : b = evenAddr a + 1#16 => evenAddr_succ_ne a (e.symm.trans h1))]
  · rw [if_neg h1, if_neg h1]

/-- A word stored is read back (R53). -/
@[simp] theorem mem16_putWord (s : State) (a : Addr) (v : Word) : (s.putWord a v).mem16 a = v := by
  rw [State.mem16, mem8_putWord, mem8_putWord, if_pos rfl, if_neg (evenAddr_succ_ne a), if_pos rfl, joinBytes_hi_lo]

theorem mem8_putWord_other (s : State) {a b : Addr} (v : Word) (h : b ∉ wordBytes a) :
    (s.putWord a v).mem8 b = s.mem8 b := by
  simp only [wordBytes, List.mem_cons, List.not_mem_nil, or_false, not_or] at h
  rw [mem8_putWord, if_neg h.1, if_neg h.2]

theorem putWord_wf (s : State) (a : Addr) (v : Word) (h : Memory.wf s.mem = true) :
    Memory.wf (s.putWord a v).mem = true :=
  Memory.wf_write _ _ _ (Memory.wf_write _ _ _ h (evenAddr a).isLt) (evenAddr a + 1#16).isLt

/-! ### The stack -/

theorem pushWord_ok_iff {s t : State} {npc : Addr} {v : Word} : s.pushWord npc v = .ok t ↔
    WordStorable s npc (s.sp - 2#16) ∧ t = (s.setSp (s.sp - 2#16)).putWord (s.sp - 2#16) v := by
  unfold State.pushWord
  rw [storeWord_ok_iff]
  rfl

theorem popWord_ok_iff {s t : State} {v : Word} : s.popWord = .ok (v, t) ↔
    WordReadable s s.sp ∧ v = s.mem16 s.sp ∧ t = s.setSp (s.sp + 2#16) := by
  unfold State.popWord
  simp only [res_bind_ok_iff, readWord_ok_iff]
  constructor
  · rintro ⟨a, ⟨h, rfl⟩, e⟩
    cases e
    exact ⟨h, rfl, rfl⟩
  · rintro ⟨h, rfl, rfl⟩
    exact ⟨_, ⟨h, rfl⟩, rfl⟩

/-! ### Interrupts and reset -/

/-- An interrupt entry that has a result wrote both words and read the vector from the memory they left. -/
theorem takeInterrupt_ok_iff {s t : State} {src : IrqSource} : s.takeInterrupt src = .ok t ↔
    ∃ u, u = ((((s.setSp (s.sp - 2#16)).putWord (s.sp - 2#16) s.pc).setSp (s.sp - 2#16 - 2#16)).putWord (s.sp - 2#16 - 2#16)
        (joinBytes s.ccr s.ccr)) ∧
      WordWritable s (s.sp - 2#16) ∧ WordWritable s (s.sp - 2#16 - 2#16) ∧ WordReadable s src.vectorAddr ∧
      t = { u with ccr := putFlag s.ccr .i true, pc := evenAddr (u.mem16 src.vectorAddr), irqInhibit := false,
                   cpuState := .programExecution } := by
  have e7 : ((s.setSp (s.sp - 2#16)).putWord (s.sp - 2#16) s.pc).sp = s.sp - 2#16 := r16_setR16_same _ _ _
  unfold State.takeInterrupt
  simp only [res_bind_ok_iff, writeWord_ok_iff, readWord_ok_iff]
  constructor
  · rintro ⟨s1, ⟨h1, rfl⟩, s2, ⟨h2, rfl⟩, v, ⟨h3, rfl⟩, e⟩
    cases e
    rw [e7] at h2 h3 ⊢
    exact ⟨_, rfl, h1, h2, h3, rfl⟩
  · rintro ⟨u, rfl, h1, h2, h3, rfl⟩
    refine ⟨_, ⟨h1, rfl⟩, _, ⟨?_, rfl⟩, _, ⟨?_, rfl⟩, ?_⟩
    · rw [e7]; exact h2
    · rw [e7]; exact h3
    · rw [e7]

theorem returnFromException_ok_iff {s t : State} : s.returnFromException = .ok t ↔
    WordReadable s s.sp ∧ WordReadable s (s.sp + 2#16) ∧
      t = (((s.setSp (s.sp + 2#16)).setSp (s.sp + 2#16 + 2#16)).setCcr (hiByte (s.mem16 s.sp))).jump (s.mem16 (s.sp + 2#16)) := by
  unfold State.returnFromException
  simp only [res_bind_ok_iff]
  constructor
  · rintro ⟨⟨w, s1⟩, h1, ⟨x, s2⟩, h2, e⟩
    rw [popWord_ok_iff] at h1
    obtain ⟨h1, rfl, rfl⟩ := h1
    rw [popWord_ok_iff] at h2
    obtain ⟨h2, rfl, rfl⟩ := h2
    cases e
    have e7 : (s.setSp (s.sp + 2#16)).sp = s.sp + 2#16 := r16_setR16_same _ _ _
    rw [e7] at h2 ⊢
    exact ⟨h1, h2, rfl⟩
  · rintro ⟨h1, h2, rfl⟩
    have e7 : (s.setSp (s.sp + 2#16)).sp = s.sp + 2#16 := r16_setR16_same _ _ _
    refine ⟨_, popWord_ok_iff.mpr ⟨h1, rfl, rfl⟩, _, popWord_ok_iff.mpr ⟨?_, rfl, rfl⟩, ?_⟩
    · rw [e7]; exact h2
    · rw [e7]; rfl

theorem resetSequence_ok_iff {s t : State} : s.resetSequence = .ok t ↔
    WordReadable s s.chip.resetVectorAddr ∧
      t = { s.uninitialised with ccr := putFlag s.uninitialised.ccr .i true, pc := evenAddr (s.mem16 s.chip.resetVectorAddr),
                                 irqInhibit := true, cpuState := .programExecution } := by
  unfold State.resetSequence
  simp only [res_bind_ok_iff, readWord_ok_iff]
  constructor
  · rintro ⟨v, ⟨h, rfl⟩, e⟩
    cases e
    exact ⟨h, rfl⟩
  · rintro ⟨h, rfl⟩
    exact ⟨_, ⟨h, rfl⟩, rfl⟩

/-- A source that is chosen is one of the pending ones and admissible. -/
theorem choose_some {s : State} {l : List Nat} {id : Nat} {src : IrqSource} (h : s.choose l = some (id, src)) :
    id ∈ l ∧ s.admissible id = some src := by
  unfold State.choose at h
  rw [List.findSome?_eq_some_iff] at h
  obtain ⟨pre, x, post, rfl, hx, -⟩ := h
  simp only [Option.map_eq_some_iff] at hx
  obtain ⟨y, hy, e⟩ := hx
  cases e
  exact ⟨by simp, hy⟩

theorem choose_none_iff {s : State} {l : List Nat} : s.choose l = none ↔ ∀ id ∈ l, s.admissible id = none := by
  simp [State.choose, List.findSome?_eq_none_iff]

/-- RES does not go low in a step exactly when it is high throughout. -/
theorem resLow_eq_false_iff {t : EnvTick} : t.resLow = false ↔ t.res = .high := by
  simp [EnvTick.resLow]

/-- A step with RES high, by the operation state. -/
theorem phase_of_high {s : State} (h : s.tick.resLow = false) : phase s =
    match s.cpuState with
    | .reset => .done (finish s.consumeTick.resetSequence)
    | .exceptionHandling => .done (.fault .midException)
    | .powerDown => s.consumeTick.powerDownPhase s.tick.pending
    | .programExecution => s.consumeTick.programPhase s.tick.pending := by
  have e := resLow_eq_false_iff.mp h
  cases c : s.cpuState <;> simp only [phase, e, c]

/-! ### Fetch and decode -/

/-- A 2-byte instruction is read from its two bytes. -/
theorem decode_short {b1 b2 : Byte} (h : isLong b1 = false) (rest : List Byte) :
    decode (b1 :: b2 :: rest) = (decodeShort b1 b2).map (·, rest) := by
  have e : decode (b1 :: b2 :: rest) = if isLong b1 then
      (match rest with
      | b3 :: b4 :: rest' => (decodeLong b1 b2 b3 b4).map (·, rest')
      | _ => .error .truncated) else (decodeShort b1 b2).map (·, rest) := by with_unfolding_all rfl
  exact e.trans (if_neg (by rw [h]; decide))

/-- A 4-byte instruction is read from its four bytes. -/
theorem decode_long {b1 b2 b3 b4 : Byte} (h : isLong b1 = true) (rest : List Byte) :
    decode (b1 :: b2 :: b3 :: b4 :: rest) = (decodeLong b1 b2 b3 b4).map (·, rest) := by
  have e : decode (b1 :: b2 :: b3 :: b4 :: rest) = if isLong b1 then
      (decodeLong b1 b2 b3 b4).map (·, rest) else (decodeShort b1 b2).map (·, b3 :: b4 :: rest) := by with_unfolding_all rfl
  exact e.trans (if_pos h)

theorem evenAddr_add_two (a : Addr) : evenAddr (a + 2#16) = evenAddr a + 2#16 := by
  apply BitVec.eq_of_toNat_eq
  rw [evenAddr_toNat, BitVec.toNat_add, BitVec.toNat_add, evenAddr_toNat]
  have := a.isLt
  simp; omega

theorem wordReadable_iff {s : State} {a : Addr} : WordReadable s a ↔ IsMemory s (evenAddr a) ∧ IsMemory s (evenAddr a + 1#16) := by
  simp [WordReadable, wordBytes]

theorem decoded_map_ok {d : Decoded} {i : Instr} {r rest : List Byte} (h : d.map (·, r) = .ok (i, rest)) : d = .ok i := by
  cases d with
  | error e => cases h
  | ok j => cases h; rfl

/-- Fetch gives what the bytes at the PC decode to, when those the first byte asks for lie in on-chip memory. -/
theorem fetch_of_decode {s : State} {i : Instr} {rest : List Byte} (hd : decode s.codeBytes = .ok (i, rest))
    (hm : ∀ j : Nat, j < (if isLong (s.mem8 (evenAddr s.pc)) then 4 else 2) → IsMemory s (evenAddr s.pc + BitVec.ofNat 16 j)) :
    s.fetch = .ok i := by
  have e3 : evenAddr s.pc + 2#16 + 1#16 = evenAddr s.pc + 3#16 := by rw [BitVec.add_assoc]; rfl
  have h1 : s.readWord s.pc = .ok (s.mem16 s.pc) := by
    refine readWord_of (wordReadable_iff.mpr ⟨?_, hm 1 (by split <;> omega)⟩)
    simpa using hm 0 (by split <;> omega)
  have hi1 : hiByte (s.mem16 s.pc) = s.mem8 (evenAddr s.pc) := hiByte_joinBytes _ _
  have lo1 : loByte (s.mem16 s.pc) = s.mem8 (evenAddr s.pc + 1#16) := loByte_joinBytes _ _
  have one : ∀ w : Word, storageBytes [w] = [hiByte w, loByte w] := fun _ => rfl
  have two : ∀ w v : Word, storageBytes [w, v] = [hiByte w, loByte w, hiByte v, loByte v] := fun _ _ => rfl
  unfold State.fetch
  simp only [h1, res_ok_bind, hi1]
  unfold State.codeBytes at hd
  cases hL : isLong (s.mem8 (evenAddr s.pc))
  · rw [decode_short hL] at hd
    simp only [Bool.false_eq_true, if_false, one, hi1, lo1, decode_short hL, decoded_map_ok hd]
    rfl
  · rw [hL, if_pos rfl] at hm
    have h2 : s.readWord (s.pc + 2#16) = .ok (s.mem16 (s.pc + 2#16)) := by
      refine readWord_of (wordReadable_iff.mpr ?_)
      rw [evenAddr_add_two, e3]
      exact ⟨hm 2 (by omega), hm 3 (by omega)⟩
    have hi2 : hiByte (s.mem16 (s.pc + 2#16)) = s.mem8 (evenAddr s.pc + 2#16) := by
      rw [← evenAddr_add_two]; exact hiByte_joinBytes _ _
    have lo2 : loByte (s.mem16 (s.pc + 2#16)) = s.mem8 (evenAddr s.pc + 3#16) := by
      rw [← e3, ← evenAddr_add_two]; exact loByte_joinBytes _ _
    rw [decode_long hL] at hd
    simp only [if_true, h2, res_ok_bind, two, hi1, lo1, hi2, lo2, decode_long hL, decoded_map_ok hd]
    rfl

/-- The PC of `State.reset` is the reset vector word, as R49 asks. -/
theorem reset_pc_is_vector_word : State.reset.pc = evenAddr (State.reset.mem16 State.reset.chip.resetVectorAddr) := by decide

end Sys2Proof.Machine
end

