-- ==== Sys2Proof/Laws/Instructions.lean ====
section
/-! SUPPORT. For each shape that instructions share, all it can do; and the two spellings of POP and PUSH. -/

namespace Sys2Proof.Machine

/-! ### Data transfer -/

theorem loadByte_next_iff {s t : State} {ea len : Addr} {rd : Reg8} : loadByte s ea rd len = .next t ↔
    (IsMemory s ea ∨ IsPeripheral s ea) ∧ t = (s.afterRead ea).moveToByte rd (s.byteAt ea) len := by
  unfold loadByte
  simp only [finish_next_iff, res_bind_ok_iff]
  constructor
  · rintro ⟨⟨v, s1⟩, h, e⟩
    obtain ⟨hr, rfl, rfl⟩ := readByte_ok_iff.mp h
    cases e
    exact ⟨hr, rfl⟩
  · rintro ⟨h, rfl⟩
    exact ⟨_, readByte_ok_iff.mpr ⟨h, rfl, rfl⟩, rfl⟩

theorem loadWord_next_iff {s t : State} {ea len : Addr} {rd : Reg16} : loadWord s ea rd len = .next t ↔
    WordReadable s ea ∧ t = s.moveToWord rd (s.mem16 ea) len := by
  unfold loadWord
  simp only [finish_next_iff, res_bind_ok_iff, readWord_ok_iff]
  constructor
  · rintro ⟨v, ⟨h, rfl⟩, e⟩
    cases e
    exact ⟨h, rfl⟩
  · rintro ⟨h, rfl⟩
    exact ⟨_, ⟨h, rfl⟩, rfl⟩

theorem moveByteTo_next_iff {s t : State} {ea len : Addr} {v : Byte} : moveByteTo s ea v len = .next t ↔
    NotImminent (s.npc len) ea ∧ (IsRam s ea ∨ IsPeripheral s ea) ∧ t = ((s.afterWrite ea v).movFlags v).advance len := by
  unfold moveByteTo
  simp only [finish_next_iff, res_bind_ok_iff, storeByte_ok_iff]
  constructor
  · rintro ⟨s1, ⟨h1, h2, rfl⟩, e⟩
    cases e
    exact ⟨h1, h2, rfl⟩
  · rintro ⟨h1, h2, rfl⟩
    exact ⟨_, ⟨h1, h2, rfl⟩, rfl⟩

theorem moveWordTo_next_iff {s t : State} {ea len : Addr} {v : Word} : moveWordTo s ea v len = .next t ↔
    WordStorable s (s.npc len) ea ∧ t = ((s.putWord ea v).movFlags v).advance len := by
  unfold moveWordTo
  simp only [finish_next_iff, res_bind_ok_iff, storeWord_ok_iff]
  constructor
  · rintro ⟨s1, ⟨h1, rfl⟩, e⟩
    cases e
    exact ⟨h1, rfl⟩
  · rintro ⟨h1, rfl⟩
    exact ⟨_, ⟨h1, rfl⟩, rfl⟩

theorem popInto_next_iff {s t : State} {rs rd : Reg16} : popInto s rs rd = .next t ↔
    WordReadable s (s.r16 rs) ∧
      t = ((s.postIncWord rs rd (s.mem16 (s.r16 rs))).movFlags (s.mem16 (s.r16 rs))).advance 2#16 := by
  unfold popInto
  simp only [finish_next_iff, res_bind_ok_iff, readWord_ok_iff]
  constructor
  · rintro ⟨v, ⟨h, rfl⟩, e⟩
    cases e
    exact ⟨h, rfl⟩
  · rintro ⟨h, rfl⟩
    exact ⟨_, ⟨h, rfl⟩, rfl⟩

theorem execMovBPostInc_next_iff {s t : State} {rs : Reg16} {rd : Reg8} : execMovBPostInc rs rd s = .next t ↔
    (IsMemory s (s.r16 rs) ∨ IsPeripheral s (s.r16 rs)) ∧
      t = (((s.afterRead (s.r16 rs)).postIncByte rs rd (s.byteAt (s.r16 rs))).movFlags (s.byteAt (s.r16 rs))).advance 2#16 := by
  unfold execMovBPostInc
  simp only [finish_next_iff, res_bind_ok_iff]
  constructor
  · rintro ⟨⟨v, s1⟩, h, e⟩
    obtain ⟨hr, rfl, rfl⟩ := readByte_ok_iff.mp h
    cases e
    exact ⟨hr, rfl⟩
  · rintro ⟨h, rfl⟩
    exact ⟨_, readByte_ok_iff.mpr ⟨h, rfl, rfl⟩, rfl⟩

/-- POP is MOV.W @SP+ (spec/30_encoding.md R107 (c)). -/
theorem execPop_eq_execMovWPostInc (rn : Reg16) (s : State) : execPop rn s = execMovWPostInc regSp rn s := rfl

/-- PUSH is MOV.W to @-SP (R107 (c)). -/
theorem execPush_eq_execMovWPreDec (rn : Reg16) (s : State) : execPush rn s = execMovWPreDec rn regSp s := rfl

/-! ### Bit manipulation -/

theorem testMem_next_iff {s t : State} {op : BitTest} {ea : Addr} {n : Imm3} : testMem s op ea n = .next t ↔
    (IsMemory s ea ∨ IsPeripheral s ea) ∧
      t = ((s.afterRead ea).setCcr (op.ccrAfter s.ccr (bitAt (s.byteAt ea) n))).advance 4#16 := by
  unfold testMem
  simp only [finish_next_iff, res_bind_ok_iff]
  constructor
  · rintro ⟨⟨v, s1⟩, h, e⟩
    obtain ⟨hr, rfl, rfl⟩ := readByte_ok_iff.mp h
    rw [afterRead_ccr] at e
    cases e
    exact ⟨hr, rfl⟩
  · rintro ⟨h, rfl⟩
    refine ⟨_, readByte_ok_iff.mpr ⟨h, rfl, rfl⟩, ?_⟩
    rw [afterRead_ccr]

theorem modifyMem_next_iff {s t : State} {ea : Addr} {f : Byte → Byte} : modifyMem s ea f = .next t ↔
    NotImminent (s.npc 4#16) ea ∧ (IsRam s ea ∨ IsPeripheral s ea) ∧
      t = ((s.afterRead ea).afterWrite ea (f (s.byteAt ea))).advance 4#16 := by
  unfold modifyMem
  simp only [finish_next_iff, res_bind_ok_iff]
  constructor
  · rintro ⟨⟨v, s1⟩, h, s2, h2, e⟩
    obtain ⟨-, rfl, rfl⟩ := readByte_ok_iff.mp h
    obtain ⟨h3, h4, rfl⟩ := storeByte_ok_iff.mp h2
    cases e
    rw [afterRead_npc] at h3
    simp only [IsRam, IsPeripheral, afterRead_kindAt] at h4
    exact ⟨h3, h4, rfl⟩
  · rintro ⟨h3, h4, rfl⟩
    refine ⟨_, readByte_ok_iff.mpr ⟨h4.imp_left IsRam.isMemory, rfl, rfl⟩, _, storeByte_ok_iff.mpr ⟨?_, ?_, rfl⟩, rfl⟩
    · rw [afterRead_npc]; exact h3
    · simpa only [IsRam, IsPeripheral, afterRead_kindAt] using h4

/-! ### Calls and returns -/

theorem callTo_next_iff {s t : State} {target len : Addr} : callTo s target len = .next t ↔
    WordStorable s (s.npc len) (s.sp - 2#16) ∧
      t = ((s.setSp (s.sp - 2#16)).putWord (s.sp - 2#16) (s.npc len)).jump target := by
  unfold callTo
  simp only [finish_next_iff, res_bind_ok_iff, pushWord_ok_iff]
  constructor
  · rintro ⟨s1, ⟨h, rfl⟩, e⟩
    cases e
    exact ⟨h, rfl⟩
  · rintro ⟨h, rfl⟩
    exact ⟨_, ⟨h, rfl⟩, rfl⟩

theorem execJmpMem_next_iff {s t : State} {abs : Byte} : execJmpMem abs s = .next t ↔
    WordReadable s (eaMemInd abs) ∧ t = s.jump (s.mem16 (eaMemInd abs)) := by
  unfold execJmpMem
  simp only [finish_next_iff, res_bind_ok_iff, readWord_ok_iff]
  constructor
  · rintro ⟨v, ⟨h, rfl⟩, e⟩
    cases e
    exact ⟨h, rfl⟩
  · rintro ⟨h, rfl⟩
    exact ⟨_, ⟨h, rfl⟩, rfl⟩

theorem execJsrMem_next_iff {s t : State} {abs : Byte} : execJsrMem abs s = .next t ↔
    WordReadable s (eaMemInd abs) ∧ callTo s (s.mem16 (eaMemInd abs)) 2#16 = .next t := by
  unfold execJsrMem
  cases h : s.readWord (eaMemInd abs) with
  | ok v =>
    obtain ⟨h1, rfl⟩ := readWord_ok_iff.mp h
    exact ⟨fun e => ⟨h1, e⟩, fun e => e.2⟩
  | error e =>
    simp only [reduceCtorEq, false_iff, not_and]
    intro h1
    rw [readWord_of h1] at h
    cases h

theorem execRts_next_iff {s t : State} : execRts s = .next t ↔
    WordReadable s s.sp ∧ t = (s.setSp (s.sp + 2#16)).jump (s.mem16 s.sp) := by
  unfold execRts
  simp only [finish_next_iff, res_bind_ok_iff]
  constructor
  · rintro ⟨⟨v, s1⟩, h, e⟩
    obtain ⟨hr, rfl, rfl⟩ := popWord_ok_iff.mp h
    cases e
    exact ⟨hr, rfl⟩
  · rintro ⟨h, rfl⟩
    exact ⟨_, popWord_ok_iff.mpr ⟨h, rfl, rfl⟩, rfl⟩

/-! ### EEPMOV -/

/-- One byte of a transfer: what it needs, and the state it leaves. -/
theorem eepmovByte_ok_iff {s t : State} {npc : Addr} : eepmovByte npc s = .ok t ↔
    (IsMemory s (s.r16 5#3) ∨ IsPeripheral s (s.r16 5#3)) ∧ NotImminent npc (s.r16 6#3) ∧
      (IsRam s (s.r16 6#3) ∨ IsPeripheral s (s.r16 6#3)) ∧
      ∃ u, u = (s.afterRead (s.r16 5#3)).afterWrite (s.r16 6#3) (s.byteAt (s.r16 5#3)) ∧
        t = ((u.setR16 5#3 (s.r16 5#3 + 1#16)).setR16 6#3 (s.r16 6#3 + 1#16)).setR8 regR4L (s.r8 regR4L - 1#8) := by
  have key : ∀ u : State, u.r16 5#3 = s.r16 5#3 → u.r16 6#3 = s.r16 6#3 → u.r8 regR4L = s.r8 regR4L →
      (let s3 := u.setR16 5#3 (u.r16 5#3 + 1#16)
       let s4 := s3.setR16 6#3 (s3.r16 6#3 + 1#16)
       s4.setR8 regR4L (s4.r8 regR4L - 1#8)) =
      ((u.setR16 5#3 (s.r16 5#3 + 1#16)).setR16 6#3 (s.r16 6#3 + 1#16)).setR8 regR4L (s.r8 regR4L - 1#8) := by
    intro u h5 h6 h4
    have e5 : regOf regR4L ≠ 5#3 := by decide
    have e6 : regOf regR4L ≠ 6#3 := by decide
    have e56 : (6#3 : Reg16) ≠ 5#3 := by decide
    simp only [r8_setR16, e5, e6, if_false, r16_setR16, e56, h5, h6, h4]
  unfold eepmovByte
  simp only [res_bind_ok_iff]
  constructor
  · rintro ⟨⟨b, s1⟩, h, s2, h2, e⟩
    obtain ⟨h1, rfl, rfl⟩ := readByte_ok_iff.mp h
    obtain ⟨h3, h4, rfl⟩ := storeByte_ok_iff.mp h2
    simp only [IsRam, IsPeripheral, afterRead_kindAt, afterRead_r16] at h3 h4
    refine ⟨h1, h3, h4, _, rfl, ?_⟩
    rw [← key _ (by simp) (by simp) (by simp)]
    cases e
    simp only [afterRead_r16]
  · rintro ⟨h1, h3, h4, u, rfl, rfl⟩
    refine ⟨_, readByte_ok_iff.mpr ⟨h1, rfl, rfl⟩, _, storeByte_ok_iff.mpr ⟨?_, ?_, rfl⟩, ?_⟩
    · simpa only [afterRead_r16] using h3
    · simpa only [IsRam, IsPeripheral, afterRead_kindAt, afterRead_r16] using h4
    · simp only [afterRead_r16]
      rw [← key _ (by simp) (by simp) (by simp)]

end Sys2Proof.Machine
end

