-- ==== Sys2Proof/Laws/Bus.lean ====
section
/-! SUPPORT. The data accesses of `Machine/Bus.lean`: a run of them changes only memory, the environment and the count of draws; run
to the end they are refused when the instruction is, and otherwise leave the memory and the environment the instruction leaves. -/

namespace Sys2Proof.Machine

/-! ### What a run of accesses can do -/

/-- What no access changes, and the canonical form. -/
def BusKeeps (s t : State) : Prop :=
  t.regs = s.regs ∧ t.pc = s.pc ∧ t.ccr = s.ccr ∧ t.irqInhibit = s.irqInhibit ∧ t.cpuState = s.cpuState ∧ t.chip = s.chip ∧
    (Memory.wf s.mem = true → Memory.wf t.mem = true) ∧ t.env.ticks = s.env.ticks

theorem BusKeeps.refl (s : State) : BusKeeps s s := ⟨rfl, rfl, rfl, rfl, rfl, rfl, id, rfl⟩

theorem BusKeeps.trans {s t u : State} (h : BusKeeps s t) (k : BusKeeps t u) : BusKeeps s u :=
  ⟨k.1.trans h.1, k.2.1.trans h.2.1, k.2.2.1.trans h.2.2.1, k.2.2.2.1.trans h.2.2.2.1, k.2.2.2.2.1.trans h.2.2.2.2.1,
    k.2.2.2.2.2.1.trans h.2.2.2.2.2.1, k.2.2.2.2.2.2.1 ∘ h.2.2.2.2.2.2.1, k.2.2.2.2.2.2.2.trans h.2.2.2.2.2.2.2⟩

theorem busKeeps_afterRead (s : State) (a : Addr) : BusKeeps s (s.afterRead a) :=
  ⟨by simp, by simp, by simp, by simp, by simp, by simp, by simp, by simp⟩

theorem busKeeps_afterWrite (s : State) (a : Addr) (v : Byte) : BusKeeps s (s.afterWrite a v) :=
  ⟨by simp, by simp, by simp, by simp, by simp, by simp, afterWrite_wf s a v, by simp⟩

theorem busKeeps_putWord (s : State) (a : Addr) (v : Word) : BusKeeps s (s.putWord a v) :=
  ⟨rfl, rfl, rfl, rfl, rfl, rfl, putWord_wf s a v, rfl⟩

/-- A run of accesses, however long, changes no register, no flag, nothing but memory, the environment and the count of draws. -/
theorem BusPlan.run_keeps (p : BusPlan) : ∀ (k : Nat) (s t : State), p.run k s = .ok t → BusKeeps s t := by
  have stop : ∀ {s t : State}, (Except.ok s : Res State) = .ok t → BusKeeps s t := fun h => by cases h; exact .refl _
  induction p with
  | done => intro k s t h; cases k <;> exact stop h
  | readByte a rest ih =>
    intro k s t h
    cases k with
    | zero => exact stop h
    | succ m =>
      obtain ⟨⟨b, s1⟩, h1, h2⟩ := res_bind_ok_iff.mp h
      obtain ⟨-, rfl, rfl⟩ := readByte_ok_iff.mp h1
      exact (busKeeps_afterRead s a).trans (ih _ _ _ _ h2)
  | readWord a rest ih =>
    intro k s t h
    cases k with
    | zero => exact stop h
    | succ m =>
      obtain ⟨_, -, h2⟩ := res_bind_ok_iff.mp h
      exact ih _ _ _ h2
  | storeByte npc a v rest ih =>
    intro k s t h
    cases k with
    | zero => exact stop h
    | succ m =>
      obtain ⟨s1, h1, h2⟩ := res_bind_ok_iff.mp h
      obtain ⟨-, -, rfl⟩ := storeByte_ok_iff.mp h1
      exact (busKeeps_afterWrite s a v).trans (ih _ _ _ h2)
  | storeWord npc a v rest ih =>
    intro k s t h
    cases k with
    | zero => exact stop h
    | succ m =>
      obtain ⟨s1, h1, h2⟩ := res_bind_ok_iff.mp h
      obtain ⟨-, rfl⟩ := storeWord_ok_iff.mp h1
      exact (busKeeps_putWord s a v).trans (ih _ _ _ h2)
  | writeWord a v rest ih =>
    intro k s t h
    cases k with
    | zero => exact stop h
    | succ m =>
      obtain ⟨s1, h1, h2⟩ := res_bind_ok_iff.mp h
      obtain ⟨-, rfl⟩ := writeWord_ok_iff.mp h1
      exact (busKeeps_putWord s a v).trans (ih _ _ _ h2)

/-- What a step begins with: nothing has changed but the report of an accepted request. -/
theorem begun_ok {s s1 : State} {pending : List Nat} {plan : BusPlan} (h : s.begun pending = .ok (s1, plan)) :
    s1 = s ∨ ∃ id, s1 = s.accepted id := by
  have hi : s.instructionBegun = .ok (s1, plan) → s1 = s := fun h => by
    obtain ⟨i, -, e⟩ := res_bind_ok_iff.mp h
    cases e; rfl
  unfold State.begun at h
  split at h
  · cases h; exact .inl rfl
  · cases h; exact .inl rfl
  · split at h <;> cases h
    · exact .inr ⟨_, rfl⟩
    · exact .inl rfl
  · split at h
    · exact .inl (hi h)
    · split at h
      · cases h; exact .inr ⟨_, rfl⟩
      · exact .inl (hi h)

/-- A step that RES cuts short: what has begun, the accesses it made, and the state they leave. -/
theorem cutShort_ok_iff {s t : State} {pending : List Nat} {k : Nat} : s.cutShort pending k = .ok t ↔
    ∃ s1 plan s2, s.begun pending = .ok (s1, plan) ∧ plan.run k s1 = .ok s2 ∧ t = s2.abandoned := by
  unfold State.cutShort
  simp only [res_bind_ok_iff]
  constructor
  · rintro ⟨⟨s1, plan⟩, h1, s2, h2, e⟩
    cases e
    exact ⟨s1, plan, s2, h1, h2, rfl⟩
  · rintro ⟨s1, plan, s2, h1, h2, rfl⟩
    exact ⟨_, h1, _, h2, rfl⟩

theorem phase_of_lowAfter {s : State} {k : Nat} (h : s.tick.res = .lowAfter k) :
    phase s = .done (finish (s.consumeTick.cutShort s.tick.pending k)) := by
  simp only [phase, h]

/-! ### The accesses of an instruction are those its meaning makes -/

/-- An outcome and a run of accesses agree: both are refused for one reason, or both leave one memory and one environment. -/
def Agrees (o : StepOutcome) (r : Res State) : Prop :=
  match o, r with
  | .next t, .ok u => t.mem = u.mem ∧ t.env = u.env
  | .refused e, .error e' => e = e'
  | .next _, .error _ => False
  | .refused _, .ok _ => False
  | .fault _, _ => False

theorem agrees_next {s t : State} (hm : t.mem = s.mem) (he : t.env = s.env) : Agrees (.next t) (.ok s) := ⟨hm, he⟩

theorem agrees_done {s t : State} {k : Nat} (hm : t.mem = s.mem) (he : t.env = s.env) :
    Agrees (.next t) (BusPlan.done.run k s) := by
  cases k <;> exact ⟨hm, he⟩

theorem agrees_loadByte {s : State} {a : Addr} {f : Byte × State → State} {k : Nat}
    (h : ∀ b s1, (f (b, s1)).mem = s1.mem ∧ (f (b, s1)).env = s1.env) :
    Agrees (finish (s.readByte a >>= fun p => .ok (f p))) ((accessLoadByte a).run (k + 1) s) := by
  simp only [accessLoadByte, BusPlan.run]
  cases s.readByte a with
  | error e => rfl
  | ok p => exact agrees_next (h p.1 p.2).1 (h p.1 p.2).2

theorem agrees_loadWord {s : State} {a : Addr} {f : Word → State} {k : Nat}
    (h : ∀ w, (f w).mem = s.mem ∧ (f w).env = s.env) :
    Agrees (finish (s.readWord a >>= fun w => .ok (f w))) ((accessLoadWord a).run (k + 1) s) := by
  simp only [accessLoadWord, BusPlan.run]
  cases s.readWord a with
  | error e => rfl
  | ok w => exact agrees_next (h w).1 (h w).2

/-- Stores do what they do whatever the registers are. -/
theorem storeByte_regs (s : State) (regs : Vector Word 8) (npc a : Addr) (v : Byte) :
    ({ s with regs := regs } : State).storeByte npc a v = (s.storeByte npc a v).map (fun t => { t with regs := regs }) := by
  unfold State.storeByte State.writeByte State.afterWrite
  have e : State.canWriteByte { s with regs := regs } a = s.canWriteByte a := rfl
  have e' : State.kindAt { s with regs := regs } a = s.kindAt a := rfl
  rw [e, e']
  split
  · rfl
  · split
    · split <;> rfl
    · rfl

theorem storeWord_regs (s : State) (regs : Vector Word 8) (npc a : Addr) (v : Word) :
    ({ s with regs := regs } : State).storeWord npc a v = (s.storeWord npc a v).map (fun t => { t with regs := regs }) := by
  unfold State.storeWord State.writeWord
  have e : State.canWriteWord { s with regs := regs } a = s.canWriteWord a := rfl
  have e' : State.wordRefusal { s with regs := regs } a = s.wordRefusal a := rfl
  rw [e, e']
  split
  · rfl
  · split <;> rfl

theorem agrees_storeByte {s : State} {regs : Vector Word 8} {npc a : Addr} {v : Byte} {f : State → State} {k : Nat}
    (h : ∀ s1, (f s1).mem = s1.mem ∧ (f s1).env = s1.env) :
    Agrees (finish (({ s with regs := regs } : State).storeByte npc a v >>= fun s1 => .ok (f s1)))
      ((accessStoreByte npc a v).run (k + 1) s) := by
  rw [storeByte_regs]
  simp only [accessStoreByte, BusPlan.run]
  cases s.storeByte npc a v with
  | error e => rfl
  | ok s1 => exact agrees_next (h _).1 (h _).2

theorem agrees_storeWord {s : State} {regs : Vector Word 8} {npc a : Addr} {v : Word} {f : State → State} {k : Nat}
    (h : ∀ s1, (f s1).mem = s1.mem ∧ (f s1).env = s1.env) :
    Agrees (finish (({ s with regs := regs } : State).storeWord npc a v >>= fun s1 => .ok (f s1)))
      ((accessStoreWord npc a v).run (k + 1) s) := by
  rw [storeWord_regs]
  simp only [accessStoreWord, BusPlan.run]
  cases s.storeWord npc a v with
  | error e => rfl
  | ok s1 => exact agrees_next (h _).1 (h _).2

theorem agrees_moveByteTo (s : State) (ea : Addr) (v : Byte) (len : Addr) (k : Nat) :
    Agrees (moveByteTo s ea v len) ((accessStoreByte (s.npc len) ea v).run (k + 1) s) :=
  agrees_storeByte (regs := s.regs) fun _ => ⟨rfl, rfl⟩

theorem agrees_moveWordTo (s : State) (ea : Addr) (v : Word) (len : Addr) (k : Nat) :
    Agrees (moveWordTo s ea v len) ((accessStoreWord (s.npc len) ea v).run (k + 1) s) :=
  agrees_storeWord (regs := s.regs) fun _ => ⟨rfl, rfl⟩

theorem agrees_movBPreDec (s : State) (rs : Reg8) (rd : Reg16) (k : Nat) :
    Agrees (execMovBPreDec rs rd s) ((dataAccesses (.movBPreDec rs rd) s).run (k + 1) s) := by
  have e : (s.setR16 rd (s.r16 rd - 1#16)).r16 rd = s.r16 rd - 1#16 := r16_setR16_same _ _ _
  unfold execMovBPreDec moveByteTo
  simp only [e]
  exact agrees_storeByte fun _ => ⟨rfl, rfl⟩

theorem agrees_pushFrom (s : State) (rs rd : Reg16) (k : Nat) :
    Agrees (pushFrom s rs rd) ((accessPushFrom s rs rd).run (k + 1) s) := by
  have e : (s.setR16 rd (s.r16 rd - 2#16)).r16 rd = s.r16 rd - 2#16 := r16_setR16_same _ _ _
  unfold pushFrom moveWordTo
  simp only [e]
  exact agrees_storeWord fun _ => ⟨rfl, rfl⟩

theorem agrees_callTo (s : State) (target len : Addr) (k : Nat) :
    Agrees (callTo s target len) ((accessCall s len).run (k + 1) s) := by
  unfold callTo State.pushWord
  exact agrees_storeWord fun _ => ⟨rfl, rfl⟩

theorem agrees_jsrMem (s : State) (abs : Byte) (k : Nat) :
    Agrees (execJsrMem abs s) ((dataAccesses (.jsrMem abs) s).run (k + 2) s) := by
  simp only [dataAccesses, execJsrMem, BusPlan.run]
  cases s.readWord (eaMemInd abs) with
  | error e => rfl
  | ok t => exact agrees_callTo s t 2#16 k

theorem agrees_testMem (s : State) (op : BitTest) (ea : Addr) (n : Imm3) (k : Nat) :
    Agrees (testMem s op ea n) ((accessLoadByte ea).run (k + 1) s) :=
  agrees_loadByte fun _ _ => ⟨rfl, rfl⟩

theorem agrees_modifyMem (s : State) (ea : Addr) (f : Byte → Byte) (k : Nat) :
    Agrees (modifyMem s ea f) ((accessModify (s.npc 4#16) ea f).run (k + 2) s) := by
  simp only [modifyMem, accessModify, BusPlan.run]
  cases h : s.readByte ea with
  | error e => rfl
  | ok p =>
    obtain ⟨-, h1, h2⟩ := readByte_ok_iff.mp (show s.readByte ea = .ok (p.1, p.2) from h)
    have e : p.2.npc 4#16 = s.npc 4#16 := by rw [h2, afterRead_npc]
    simp only [res_ok_bind, e]
    cases p.2.storeByte (s.npc 4#16) ea (f p.1) with
    | error e => rfl
    | ok u => exact agrees_next rfl rfl

theorem popWord_eq (s : State) : s.popWord = (s.readWord s.sp).map fun v => (v, s.setSp (s.sp + 2#16)) := by
  unfold State.popWord
  cases s.readWord s.sp <;> rfl

theorem agrees_rts (s : State) (k : Nat) : Agrees (execRts s) ((accessLoadWord s.sp).run (k + 1) s) := by
  unfold execRts
  rw [popWord_eq]
  simp only [accessLoadWord, BusPlan.run]
  cases s.readWord s.sp with
  | error e => rfl
  | ok w => exact agrees_next rfl rfl

theorem agrees_rte (s : State) (k : Nat) : Agrees (execRte s) ((dataAccesses .rte s).run (k + 2) s) := by
  have e7 : (s.setSp (s.sp + 2#16)).sp = s.sp + 2#16 := r16_setR16_same _ _ _
  unfold execRte State.returnFromException
  simp only [popWord_eq, dataAccesses, BusPlan.run, accessLoadWord]
  cases s.readWord s.sp with
  | error e => rfl
  | ok w =>
    have e : (s.setSp (s.sp + 2#16)).readWord (s.sp + 2#16) = s.readWord (s.sp + 2#16) := rfl
    simp only [Except.map, res_ok_bind, e7, e]
    cases s.readWord (s.sp + 2#16) with
    | error e => rfl
    | ok t => exact agrees_next rfl rfl

theorem agrees_branchOn (s : State) (c : Cond) (disp : Byte) (k : Nat) : Agrees (branchOn c disp s) (BusPlan.done.run k s) := by
  unfold branchOn
  split <;> exact agrees_done rfl rfl

theorem agrees_decimalAdjust (s : State) (rd : Reg8) (table : List AdjustRow) (carry : AdjustRow → Bool) (free : List Flag)
    (k : Nat) : Agrees (decimalAdjust s rd table carry free) (BusPlan.done.run k s) := by
  unfold decimalAdjust
  dsimp only
  split <;> exact agrees_done rfl rfl

theorem agrees_divxu (s : State) (rs : Reg8) (rd : Reg16) (k : Nat) : Agrees (execDivxu rs rd s) (BusPlan.done.run k s) := by
  unfold execDivxu
  dsimp only
  split
  · exact agrees_done rfl rfl
  · split <;> exact agrees_done rfl rfl

theorem agrees_movBPostInc (s : State) (rs : Reg16) (rd : Reg8) (k : Nat) :
    Agrees (execMovBPostInc rs rd s) ((accessLoadByte (s.r16 rs)).run (k + 1) s) := by
  refine agrees_loadByte fun b s1 => ?_
  have e : (s1.postIncByte rs rd b).mem = s1.mem ∧ (s1.postIncByte rs rd b).env = s1.env := by
    unfold State.postIncByte; split <;> exact ⟨rfl, rfl⟩
  exact e

theorem agrees_popInto (s : State) (rs rd : Reg16) (k : Nat) :
    Agrees (popInto s rs rd) ((accessLoadWord (s.r16 rs)).run (k + 1) s) := by
  refine agrees_loadWord fun w => ?_
  have e : (s.postIncWord rs rd w).mem = s.mem ∧ (s.postIncWord rs rd w).env = s.env := by
    unfold State.postIncWord; split <;> exact ⟨rfl, rfl⟩
  exact e

/-! ### EEPMOV -/

theorem readByte_regs (s : State) (regs : Vector Word 8) (a : Addr) :
    ({ s with regs := regs } : State).readByte a = (s.readByte a).map (fun p => (p.1, { p.2 with regs := regs })) := by
  unfold State.readByte State.afterRead
  have e : State.canReadByte { s with regs := regs } a = s.canReadByte a := rfl
  have e' : State.kindAt { s with regs := regs } a = s.kindAt a := rfl
  have e'' : State.byteAt { s with regs := regs } a = s.byteAt a := rfl
  rw [e, e', e'']
  split
  · split <;> rfl
  · rfl

/-- Two runs agree: both are refused for one reason, or both leave one memory and one environment. -/
def AgreesRun (a b : Res State) : Prop :=
  match a, b with
  | .ok t, .ok u => t.mem = u.mem ∧ t.env = u.env
  | .error e, .error e' => e = e'
  | .ok _, .error _ => False
  | .error _, .ok _ => False

theorem agrees_of_run {a b : Res State} {f : State → State} (h : AgreesRun a b)
    (hf : ∀ t, (f t).mem = t.mem ∧ (f t).env = t.env) : Agrees (finish (a >>= fun t => .ok (f t))) b := by
  cases a <;> cases b
  · exact h
  · exact h.elim
  · exact h.elim
  · exact ⟨(hf _).1.trans h.1, (hf _).2.trans h.2⟩

/-- The transfer and its accesses, from states that differ in the registers only. -/
theorem agrees_transfer (npc : Addr) (n k : Nat) : ∀ (s : State) (regs : Vector Word 8), 2 * n ≤ k →
    AgreesRun (eepmovBytes npc n { s with regs := regs })
      ((accessTransfer npc n (State.r16 { s with regs := regs } 5#3) (State.r16 { s with regs := regs } 6#3)).run k s) := by
  induction n generalizing k with
  | zero => intro s regs _; cases k <;> exact ⟨rfl, rfl⟩
  | succ m ih =>
    intro s regs hk
    obtain ⟨k, rfl⟩ : ∃ j, k = j + 2 := ⟨k - 2, by omega⟩
    simp only [eepmovBytes, accessTransfer, BusPlan.run, eepmovByte]
    rw [readByte_regs]
    cases h : s.readByte (State.r16 { s with regs := regs } 5#3) with
    | error e => rfl
    | ok p =>
      have hp : p.2.chip = s.chip := by
        obtain ⟨-, -, h2⟩ := readByte_ok_iff.mp (show s.readByte _ = .ok (p.1, p.2) from h)
        rw [h2]; simp
      simp only [Except.map, res_ok_bind]
      rw [storeByte_regs]
      have e6 : State.r16 { p.2 with regs := regs } 6#3 = State.r16 { s with regs := regs } 6#3 := rfl
      rw [e6]
      cases h2 : p.2.storeByte npc (State.r16 { s with regs := regs } 6#3) p.1 with
      | error e => rfl
      | ok u =>
        simp only [Except.map, res_ok_bind]
        have e56 : (6#3 : Reg16) ≠ 5#3 := by decide
        have e65 : (5#3 : Reg16) ≠ 6#3 := by decide
        have e45 : (5#3 : Reg16) ≠ regOf regR4L := by decide
        have e46 : (6#3 : Reg16) ≠ regOf regR4L := by decide
        have key : ∀ t : State, t.r16 5#3 = State.r16 { s with regs := regs } 5#3 + 1#16 →
            t.r16 6#3 = State.r16 { s with regs := regs } 6#3 + 1#16 → t = { u with regs := t.regs } →
            AgreesRun (eepmovBytes npc m t) ((accessTransfer npc m (State.r16 { s with regs := regs } 5#3 + 1#16)
              (State.r16 { s with regs := regs } 6#3 + 1#16)).run k u) := by
          intro t h5 h6 ht
          have := ih k u t.regs (by omega)
          rw [← ht, h5, h6] at this
          exact this
        refine key _ ?_ ?_ rfl
        · simp only [State.setR8, r16_setR16, e45, e65, if_true, if_false]
          rfl
        · simp only [State.setR8, r16_setR16, e46, e56, if_true, if_false]
          rfl

theorem agrees_eepmov (s : State) (k : Nat) (h : 512 ≤ k) : Agrees (execEepmov s) ((dataAccesses .eepmov s).run k s) := by
  obtain ⟨k, rfl⟩ : ∃ j, k = j + 2 := ⟨k - 2, by omega⟩
  simp only [execEepmov, dataAccesses, BusPlan.run]
  cases h1 : s.readByte (s.r16 5#3) with
  | error e => rfl
  | ok p =>
    obtain ⟨-, -, hp⟩ := readByte_ok_iff.mp (show s.readByte _ = .ok (p.1, p.2) from h1)
    simp only [res_ok_bind]
    have e6 : p.2.r16 6#3 = s.r16 6#3 := by rw [hp, afterRead_r16]
    rw [e6]
    cases h2 : p.2.readByte (s.r16 6#3) with
    | error e => rfl
    | ok q =>
      obtain ⟨-, -, hq⟩ := readByte_ok_iff.mp (show p.2.readByte _ = .ok (q.1, q.2) from h2)
      simp only [res_ok_bind]
      have hr : q.2.regs = s.regs := by rw [hq, hp]; simp
      have hn : (s.r8 regR4L).toNat ≤ 255 := by have := (s.r8 regR4L).isLt; omega
      have := agrees_transfer (s.npc 4#16) (s.r8 regR4L).toNat k q.2 s.regs (by omega)
      rw [← hr] at this
      have e5' : State.r16 { q.2 with regs := q.2.regs } 5#3 = s.r16 5#3 := by simp only [State.r16, hr]
      have e6' : State.r16 { q.2 with regs := q.2.regs } 6#3 = s.r16 6#3 := by simp only [State.r16, hr]
      rw [e5', e6'] at this
      exact agrees_of_run this fun _ => ⟨rfl, rfl⟩

/-! ### All instructions -/

/-- Run to their end, the data accesses of an instruction are refused when it is, for the same reason, and otherwise leave the memory
and the environment it leaves. -/
theorem dataAccesses_agree (i : Instr) (s : State) (k : Nat) (h : 512 ≤ k) : Agrees (exec i s) ((dataAccesses i s).run k s) := by
  obtain ⟨k, rfl⟩ : ∃ j, k = j + 2 := ⟨k - 2, by omega⟩
  cases i
  case nop => exact agrees_done rfl rfl
  case sleep => exact agrees_done rfl rfl
  case stc => exact agrees_done rfl rfl
  case ldcReg => exact agrees_done rfl rfl
  case orc => exact agrees_done rfl rfl
  case xorc => exact agrees_done rfl rfl
  case andc => exact agrees_done rfl rfl
  case ldcImm => exact agrees_done rfl rfl
  case addBReg => exact agrees_done rfl rfl
  case addW => exact agrees_done rfl rfl
  case inc => exact agrees_done rfl rfl
  case adds1 => exact agrees_done rfl rfl
  case adds2 => exact agrees_done rfl rfl
  case movBReg => exact agrees_done rfl rfl
  case movWReg => exact agrees_done rfl rfl
  case addxReg => exact agrees_done rfl rfl
  case daa => exact agrees_decimalAdjust s _ _ _ _ (k + 2)
  case shll => exact agrees_done rfl rfl
  case shal => exact agrees_done rfl rfl
  case shlr => exact agrees_done rfl rfl
  case shar => exact agrees_done rfl rfl
  case rotxl => exact agrees_done rfl rfl
  case rotl => exact agrees_done rfl rfl
  case rotxr => exact agrees_done rfl rfl
  case rotr => exact agrees_done rfl rfl
  case orReg => exact agrees_done rfl rfl
  case xorReg => exact agrees_done rfl rfl
  case andReg => exact agrees_done rfl rfl
  case notReg => exact agrees_done rfl rfl
  case neg => exact agrees_done rfl rfl
  case subB => exact agrees_done rfl rfl
  case subW => exact agrees_done rfl rfl
  case dec => exact agrees_done rfl rfl
  case subs1 => exact agrees_done rfl rfl
  case subs2 => exact agrees_done rfl rfl
  case cmpBReg => exact agrees_done rfl rfl
  case cmpW => exact agrees_done rfl rfl
  case subxReg => exact agrees_done rfl rfl
  case das => exact agrees_decimalAdjust s _ _ _ _ (k + 2)
  case movBLoadAbs8 => exact agrees_loadByte fun _ _ => ⟨rfl, rfl⟩
  case movBStoreAbs8 => exact agrees_moveByteTo s _ _ _ (k + 1)
  case bra => exact agrees_branchOn s .always _ (k + 2)
  case brn disp => exact agrees_branchOn s .never disp (k + 2)
  case bhi => exact agrees_branchOn s _ _ (k + 2)
  case bls => exact agrees_branchOn s _ _ (k + 2)
  case bcc => exact agrees_branchOn s _ _ (k + 2)
  case bcs => exact agrees_branchOn s _ _ (k + 2)
  case bne => exact agrees_branchOn s _ _ (k + 2)
  case beq => exact agrees_branchOn s _ _ (k + 2)
  case bvc => exact agrees_branchOn s _ _ (k + 2)
  case bvs => exact agrees_branchOn s _ _ (k + 2)
  case bpl => exact agrees_branchOn s _ _ (k + 2)
  case bmi => exact agrees_branchOn s _ _ (k + 2)
  case bge => exact agrees_branchOn s _ _ (k + 2)
  case blt => exact agrees_branchOn s _ _ (k + 2)
  case bgt => exact agrees_branchOn s _ _ (k + 2)
  case ble => exact agrees_branchOn s _ _ (k + 2)
  case mulxu => exact agrees_done rfl rfl
  case divxu => exact agrees_divxu s _ _ (k + 2)
  case rts => exact agrees_rts s (k + 1)
  case bsr => exact agrees_callTo s _ _ (k + 1)
  case rte => exact agrees_rte s k
  case jmpInd => exact agrees_done rfl rfl
  case jmpAbs => exact agrees_done rfl rfl
  case jmpMem => exact agrees_loadWord fun _ => ⟨rfl, rfl⟩
  case jsrInd => exact agrees_callTo s _ _ (k + 1)
  case jsrAbs => exact agrees_callTo s _ _ (k + 1)
  case jsrMem => exact agrees_jsrMem s _ k
  case bsetRegReg => exact agrees_done rfl rfl
  case bnotRegReg => exact agrees_done rfl rfl
  case bclrRegReg => exact agrees_done rfl rfl
  case btstRegReg => exact agrees_done rfl rfl
  case bstImmReg => exact agrees_done rfl rfl
  case bistImmReg => exact agrees_done rfl rfl
  case bsetImmReg => exact agrees_done rfl rfl
  case bnotImmReg => exact agrees_done rfl rfl
  case bclrImmReg => exact agrees_done rfl rfl
  case btstImmReg => exact agrees_done rfl rfl
  case borImmReg => exact agrees_done rfl rfl
  case biorImmReg => exact agrees_done rfl rfl
  case bxorImmReg => exact agrees_done rfl rfl
  case bixorImmReg => exact agrees_done rfl rfl
  case bandImmReg => exact agrees_done rfl rfl
  case biandImmReg => exact agrees_done rfl rfl
  case bldImmReg => exact agrees_done rfl rfl
  case bildImmReg => exact agrees_done rfl rfl
  case movBLoadInd => exact agrees_loadByte fun _ _ => ⟨rfl, rfl⟩
  case movBStoreInd => exact agrees_moveByteTo s _ _ _ (k + 1)
  case movWLoadInd => exact agrees_loadWord fun _ => ⟨rfl, rfl⟩
  case movWStoreInd => exact agrees_moveWordTo s _ _ _ (k + 1)
  case movBLoadAbs16 => exact agrees_loadByte fun _ _ => ⟨rfl, rfl⟩
  case movBStoreAbs16 => exact agrees_moveByteTo s _ _ _ (k + 1)
  case movWLoadAbs16 => exact agrees_loadWord fun _ => ⟨rfl, rfl⟩
  case movWStoreAbs16 => exact agrees_moveWordTo s _ _ _ (k + 1)
  case movBPostInc => exact agrees_movBPostInc s _ _ (k + 1)
  case movBPreDec => exact agrees_movBPreDec s _ _ (k + 1)
  case movWPostInc => exact agrees_popInto s _ _ (k + 1)
  case movWPreDec => exact agrees_pushFrom s _ _ (k + 1)
  case pop => exact agrees_popInto s _ _ (k + 1)
  case push => exact agrees_pushFrom s _ _ (k + 1)
  case movBLoadDisp => exact agrees_loadByte fun _ _ => ⟨rfl, rfl⟩
  case movBStoreDisp => exact agrees_moveByteTo s _ _ _ (k + 1)
  case movWLoadDisp => exact agrees_loadWord fun _ => ⟨rfl, rfl⟩
  case movWStoreDisp => exact agrees_moveWordTo s _ _ _ (k + 1)
  case movWImm => exact agrees_done rfl rfl
  case eepmov => exact agrees_eepmov s (k + 2) h
  case btstImmInd => exact agrees_testMem s _ _ _ (k + 1)
  case btstImmAbs => exact agrees_testMem s _ _ _ (k + 1)
  case borImmInd => exact agrees_testMem s _ _ _ (k + 1)
  case borImmAbs => exact agrees_testMem s _ _ _ (k + 1)
  case biorImmInd => exact agrees_testMem s _ _ _ (k + 1)
  case biorImmAbs => exact agrees_testMem s _ _ _ (k + 1)
  case bxorImmInd => exact agrees_testMem s _ _ _ (k + 1)
  case bxorImmAbs => exact agrees_testMem s _ _ _ (k + 1)
  case bixorImmInd => exact agrees_testMem s _ _ _ (k + 1)
  case bixorImmAbs => exact agrees_testMem s _ _ _ (k + 1)
  case bandImmInd => exact agrees_testMem s _ _ _ (k + 1)
  case bandImmAbs => exact agrees_testMem s _ _ _ (k + 1)
  case biandImmInd => exact agrees_testMem s _ _ _ (k + 1)
  case biandImmAbs => exact agrees_testMem s _ _ _ (k + 1)
  case bldImmInd => exact agrees_testMem s _ _ _ (k + 1)
  case bldImmAbs => exact agrees_testMem s _ _ _ (k + 1)
  case bildImmInd => exact agrees_testMem s _ _ _ (k + 1)
  case bildImmAbs => exact agrees_testMem s _ _ _ (k + 1)
  case btstRegInd => exact agrees_testMem s _ _ _ (k + 1)
  case btstRegAbs => exact agrees_testMem s _ _ _ (k + 1)
  case bstImmInd => exact agrees_modifyMem s _ _ k
  case bstImmAbs => exact agrees_modifyMem s _ _ k
  case bistImmInd => exact agrees_modifyMem s _ _ k
  case bistImmAbs => exact agrees_modifyMem s _ _ k
  case bsetImmInd => exact agrees_modifyMem s _ _ k
  case bsetImmAbs => exact agrees_modifyMem s _ _ k
  case bnotImmInd => exact agrees_modifyMem s _ _ k
  case bnotImmAbs => exact agrees_modifyMem s _ _ k
  case bclrImmInd => exact agrees_modifyMem s _ _ k
  case bclrImmAbs => exact agrees_modifyMem s _ _ k
  case bsetRegInd => exact agrees_modifyMem s _ _ k
  case bsetRegAbs => exact agrees_modifyMem s _ _ k
  case bnotRegInd => exact agrees_modifyMem s _ _ k
  case bnotRegAbs => exact agrees_modifyMem s _ _ k
  case bclrRegInd => exact agrees_modifyMem s _ _ k
  case bclrRegAbs => exact agrees_modifyMem s _ _ k
  case addBImm => exact agrees_done rfl rfl
  case addxImm => exact agrees_done rfl rfl
  case cmpBImm => exact agrees_done rfl rfl
  case subxImm => exact agrees_done rfl rfl
  case orImm => exact agrees_done rfl rfl
  case xorImm => exact agrees_done rfl rfl
  case andImm => exact agrees_done rfl rfl
  case movBImm => exact agrees_done rfl rfl

/-- Run to their end, the accesses of an interrupt entry are refused when it is, for the same reason, and otherwise leave the memory
and the environment it leaves. -/
theorem interruptAccesses_agree (s : State) (src : IrqSource) (k : Nat) :
    AgreesRun (s.takeInterrupt src) ((interruptAccesses s src).run (k + 3) s) := by
  have e4 : s.sp - 2#16 - 2#16 = s.sp - 4#16 := by rw [BitVec.sub_sub]; rfl
  have w1 : ∀ (u : State) (x : Word) (a : Addr) (v : Word), (u.setSp x).writeWord a v = (u.writeWord a v).map (·.setSp x) := by
    intro u x a v
    unfold State.writeWord
    have e : State.canWriteWord (u.setSp x) a = u.canWriteWord a := rfl
    have e' : State.wordRefusal (u.setSp x) a = u.wordRefusal a := rfl
    rw [e, e']
    split <;> rfl
  unfold State.takeInterrupt
  simp only [interruptAccesses, accessLoadWord, BusPlan.run, w1]
  cases s.writeWord (s.sp - 2#16) s.pc with
  | error e => rfl
  | ok u =>
    have eu : (u.setSp (s.sp - 2#16)).sp = s.sp - 2#16 := r16_setR16_same _ _ _
    simp only [Except.map, res_ok_bind, eu, w1, e4]
    cases u.writeWord (s.sp - 4#16) (joinBytes s.ccr s.ccr) with
    | error e => rfl
    | ok v =>
      have er : ∀ x y : Word, ((v.setSp x).setSp y).readWord src.vectorAddr = v.readWord src.vectorAddr := fun _ _ => rfl
      simp only [res_ok_bind, er]
      cases v.readWord src.vectorAddr with
      | error e => rfl
      | ok w => exact ⟨rfl, rfl⟩

end Sys2Proof.Machine
end

