-- ==== Sys2Proof/Laws/Effects.lean ====
section
/-! SUPPORT. The parts of `Effect`, one lemma per kind of update: which register halves, flags and bytes of memory an update gives
which value, and that it gives no other. -/

namespace Sys2Proof.Machine

/-- The register halves that separate two states. -/
def RegsDiffer (s t : State) (regs : List (Reg8 × Byte)) : Prop :=
  (∀ p ∈ regs, t.r8 p.1 = p.2) ∧ KeepsRegs s t (regs.map Prod.fst)

/-- The flags that separate two CCRs. -/
def FlagsDiffer (c d : Byte) (flags : List (Flag × Bool)) : Prop :=
  (∀ p ∈ flags, getFlag d p.1 = p.2) ∧ ∀ f : Flag, f ∉ flags.map Prod.fst → getFlag d f = getFlag c f

/-- The bytes of memory that separate two states. -/
def BytesDiffer (s t : State) (bytes : List (Addr × Byte)) : Prop :=
  (∀ p ∈ bytes, t.mem8 p.1 = p.2) ∧ KeepsMem s t (bytes.map Prod.fst)

theorem Differs.intro {s t : State} {pc : Addr} {regs : List (Reg8 × Byte)} {flags : List (Flag × Bool)}
    {bytes : List (Addr × Byte)} (hp : t.pc = pc) (hr : RegsDiffer s t regs) (hf : FlagsDiffer s.ccr t.ccr flags)
    (hb : BytesDiffer s t bytes) (he : t.env = s.env) (hc : t.cpuState = s.cpuState) (hh : t.chip = s.chip) :
    Differs s t pc regs flags bytes :=
  ⟨hp, hr.1, hf.1, hb.1, hr.2, hf.2, hb.2, he, hc, hh⟩

/-! ### Registers -/

theorem regsDiffer_of_eq {s t : State} (h : t.regs = s.regs) : RegsDiffer s t [] := by
  refine ⟨by simp, fun c _ => ?_⟩
  simp only [State.r8, State.r16, h]

theorem regsDiffer_setR8 {s t : State} {rd : Reg8} {v : Byte} (h : t.regs = (s.setR8 rd v).regs) :
    RegsDiffer s t [(rd, v)] := by
  have e : ∀ c, t.r8 c = (s.setR8 rd v).r8 c := fun c => by simp only [State.r8, State.r16, h]
  refine ⟨by simp [e], fun c hc => ?_⟩
  rw [e, r8_setR8_other _ _ (by simpa using hc)]

theorem r8_setR16_half (s : State) (n : Reg16) (v : Word) : ∀ p ∈ wordReg n v, (s.setR16 n v).r8 p.1 = p.2 := by
  simp [wordReg, r8_setR16]

theorem r8_setR16_other (s : State) (n : Reg16) (v : Word) (c : Reg8) (h : c ∉ (wordReg n v).map Prod.fst) :
    (s.setR16 n v).r8 c = s.r8 c := by
  have : regOf c ≠ n := fun e => h (by simpa [wordReg] using (mem_halves c n).mpr e)
  simp [r8_setR16, this]

theorem regsDiffer_setR16 {s t : State} {n : Reg16} {v : Word} (h : t.regs = (s.setR16 n v).regs) :
    RegsDiffer s t (wordReg n v) := by
  have e : ∀ c, t.r8 c = (s.setR16 n v).r8 c := fun c => by simp only [State.r8, State.r16, h]
  exact ⟨fun p hp => by rw [e]; exact r8_setR16_half s n v p hp, fun c hc => by rw [e]; exact r8_setR16_other s n v c hc⟩

/-! ### Flags -/

theorem flagsDiffer_refl (c : Byte) : FlagsDiffer c c [] := ⟨by simp, fun _ _ => rfl⟩

theorem flagsDiffer_putNZV {w : Nat} (c : Byte) (r : BitVec w) (v : Bool) :
    FlagsDiffer c (putNZV c r v) [(.n, r.msb), (.z, decide (r = 0#w)), (.v, v)] := by
  constructor
  · simp [getFlag_putNZV, beq_eq_decide]
  · intro f hf
    cases f <;> simp_all [getFlag_putNZV]

theorem flagsDiffer_value {w : Nat} (c : Byte) (r : BitVec w) : FlagsDiffer c (putNZV c r false) (valueFlags r) :=
  flagsDiffer_putNZV c r false

theorem flagsDiffer_putNZVC (c r : Byte) (k : Bool) :
    FlagsDiffer c (putNZVC c r false k) ((.c, k) :: valueFlags r) := by
  constructor
  · simp [valueFlags, getFlag_putNZVC, beq_eq_decide]
  · intro f hf
    cases f <;> simp_all [valueFlags, getFlag_putNZVC]

/-! ### Memory -/

theorem bytesDiffer_of_eq {s t : State} (h : t.mem = s.mem) : BytesDiffer s t [] := by
  refine ⟨by simp, fun a _ => ?_⟩
  rw [h]

theorem bytesDiffer_write {s t : State} {a : Addr} {v : Byte} (h : t.mem = Memory.write s.mem a.toNat v) :
    BytesDiffer s t [(a, v)] := by
  constructor
  · simp [State.mem8, h]
  · intro b hb
    rw [h, Memory.read_write_other]
    intro e
    exact hb (by simp [BitVec.eq_of_toNat_eq e])

theorem bytesDiffer_putWord {s t : State} {a : Addr} {v : Word} (h : t.mem = (s.putWord a v).mem) :
    BytesDiffer s t (wordCells a v) := by
  have e : ∀ b, t.mem8 b = (s.putWord a v).mem8 b := fun b => by simp only [State.mem8, h]
  constructor
  · intro p hp
    rw [e, mem8_putWord]
    simp only [wordCells, List.mem_cons, List.not_mem_nil, or_false] at hp
    rcases hp with rfl | rfl
    · rw [if_pos rfl]
    · rw [if_neg (evenAddr_succ_ne a), if_pos rfl]
  · intro b hb
    exact (e b).trans (mem8_putWord_other s v (by simpa [wordCells, wordBytes] using hb))

end Sys2Proof.Machine
end

