-- ==== Sys2Proof/Laws/PerInstr.lean ====
section
/-! SUPPORT. Statements made for each instruction on its own. -/

namespace Sys2Proof.Laws

/-- An instruction is one word, or two when its first byte is that of a 4-byte instruction (spec/30_encoding.md R80, R81). -/
def EncodeLength.Statement (i : Instr) : Prop :=
  (encode i).length = if isLong (hiByte ((encode i).headD 0)) then 2 else 1

theorem EncodeLength.isLong_nibbles : ∀ h l : Nibble, h ≠ 5#4 ∧ h ≠ 6#4 ∧ h ≠ 7#4 → isLong (joinNibbles h l) = false := by
  decide

theorem EncodeLength.one (i : Instr) (k b : Byte) (h : isLong k = false) (e : encode i = [joinBytes k b]) :
    EncodeLength.Statement i := by
  simp [EncodeLength.Statement, e, Machine.hiByte_joinBytes, h]

theorem EncodeLength.two (i : Instr) (k b : Byte) (w : Word) (h : isLong k = true) (e : encode i = [joinBytes k b, w]) :
    EncodeLength.Statement i := by
  simp [EncodeLength.Statement, e, Machine.hiByte_joinBytes, h]

theorem EncodeLength.nop : EncodeLength.Statement (.nop) := EncodeLength.one _ _ _ (by decide) rfl

theorem EncodeLength.sleep : EncodeLength.Statement (.sleep) := EncodeLength.one _ _ _ (by decide) rfl

theorem EncodeLength.stc (rd : Reg8) : EncodeLength.Statement (.stc rd) := EncodeLength.one _ _ _ (by decide) rfl

theorem EncodeLength.ldcReg (rs : Reg8) : EncodeLength.Statement (.ldcReg rs) := EncodeLength.one _ _ _ (by decide) rfl

theorem EncodeLength.orc (imm : Byte) : EncodeLength.Statement (.orc imm) := EncodeLength.one _ _ _ (by decide) rfl

theorem EncodeLength.xorc (imm : Byte) : EncodeLength.Statement (.xorc imm) := EncodeLength.one _ _ _ (by decide) rfl

theorem EncodeLength.andc (imm : Byte) : EncodeLength.Statement (.andc imm) := EncodeLength.one _ _ _ (by decide) rfl

theorem EncodeLength.ldcImm (imm : Byte) : EncodeLength.Statement (.ldcImm imm) := EncodeLength.one _ _ _ (by decide) rfl

theorem EncodeLength.addBReg (rs : Reg8) (rd : Reg8) : EncodeLength.Statement (.addBReg rs rd) := EncodeLength.one _ _ _ (by decide) rfl

theorem EncodeLength.addW (rs : Reg16) (rd : Reg16) : EncodeLength.Statement (.addW rs rd) := EncodeLength.one _ _ _ (by decide) rfl

theorem EncodeLength.inc (rd : Reg8) : EncodeLength.Statement (.inc rd) := EncodeLength.one _ _ _ (by decide) rfl

theorem EncodeLength.adds1 (rd : Reg16) : EncodeLength.Statement (.adds1 rd) := EncodeLength.one _ _ _ (by decide) rfl

theorem EncodeLength.adds2 (rd : Reg16) : EncodeLength.Statement (.adds2 rd) := EncodeLength.one _ _ _ (by decide) rfl

theorem EncodeLength.movBReg (rs : Reg8) (rd : Reg8) : EncodeLength.Statement (.movBReg rs rd) := EncodeLength.one _ _ _ (by decide) rfl

theorem EncodeLength.movWReg (rs : Reg16) (rd : Reg16) : EncodeLength.Statement (.movWReg rs rd) := EncodeLength.one _ _ _ (by decide) rfl

theorem EncodeLength.addxReg (rs : Reg8) (rd : Reg8) : EncodeLength.Statement (.addxReg rs rd) := EncodeLength.one _ _ _ (by decide) rfl

theorem EncodeLength.daa (rd : Reg8) : EncodeLength.Statement (.daa rd) := EncodeLength.one _ _ _ (by decide) rfl

theorem EncodeLength.shll (rd : Reg8) : EncodeLength.Statement (.shll rd) := EncodeLength.one _ _ _ (by decide) rfl

theorem EncodeLength.shal (rd : Reg8) : EncodeLength.Statement (.shal rd) := EncodeLength.one _ _ _ (by decide) rfl

theorem EncodeLength.shlr (rd : Reg8) : EncodeLength.Statement (.shlr rd) := EncodeLength.one _ _ _ (by decide) rfl

theorem EncodeLength.shar (rd : Reg8) : EncodeLength.Statement (.shar rd) := EncodeLength.one _ _ _ (by decide) rfl

theorem EncodeLength.rotxl (rd : Reg8) : EncodeLength.Statement (.rotxl rd) := EncodeLength.one _ _ _ (by decide) rfl

theorem EncodeLength.rotl (rd : Reg8) : EncodeLength.Statement (.rotl rd) := EncodeLength.one _ _ _ (by decide) rfl

theorem EncodeLength.rotxr (rd : Reg8) : EncodeLength.Statement (.rotxr rd) := EncodeLength.one _ _ _ (by decide) rfl

theorem EncodeLength.rotr (rd : Reg8) : EncodeLength.Statement (.rotr rd) := EncodeLength.one _ _ _ (by decide) rfl

theorem EncodeLength.orReg (rs : Reg8) (rd : Reg8) : EncodeLength.Statement (.orReg rs rd) := EncodeLength.one _ _ _ (by decide) rfl

theorem EncodeLength.xorReg (rs : Reg8) (rd : Reg8) : EncodeLength.Statement (.xorReg rs rd) := EncodeLength.one _ _ _ (by decide) rfl

theorem EncodeLength.andReg (rs : Reg8) (rd : Reg8) : EncodeLength.Statement (.andReg rs rd) := EncodeLength.one _ _ _ (by decide) rfl

theorem EncodeLength.notReg (rd : Reg8) : EncodeLength.Statement (.notReg rd) := EncodeLength.one _ _ _ (by decide) rfl

theorem EncodeLength.neg (rd : Reg8) : EncodeLength.Statement (.neg rd) := EncodeLength.one _ _ _ (by decide) rfl

theorem EncodeLength.subB (rs : Reg8) (rd : Reg8) : EncodeLength.Statement (.subB rs rd) := EncodeLength.one _ _ _ (by decide) rfl

theorem EncodeLength.subW (rs : Reg16) (rd : Reg16) : EncodeLength.Statement (.subW rs rd) := EncodeLength.one _ _ _ (by decide) rfl

theorem EncodeLength.dec (rd : Reg8) : EncodeLength.Statement (.dec rd) := EncodeLength.one _ _ _ (by decide) rfl

theorem EncodeLength.subs1 (rd : Reg16) : EncodeLength.Statement (.subs1 rd) := EncodeLength.one _ _ _ (by decide) rfl

theorem EncodeLength.subs2 (rd : Reg16) : EncodeLength.Statement (.subs2 rd) := EncodeLength.one _ _ _ (by decide) rfl

theorem EncodeLength.cmpBReg (rs : Reg8) (rd : Reg8) : EncodeLength.Statement (.cmpBReg rs rd) := EncodeLength.one _ _ _ (by decide) rfl

theorem EncodeLength.cmpW (rs : Reg16) (rd : Reg16) : EncodeLength.Statement (.cmpW rs rd) := EncodeLength.one _ _ _ (by decide) rfl

theorem EncodeLength.subxReg (rs : Reg8) (rd : Reg8) : EncodeLength.Statement (.subxReg rs rd) := EncodeLength.one _ _ _ (by decide) rfl

theorem EncodeLength.das (rd : Reg8) : EncodeLength.Statement (.das rd) := EncodeLength.one _ _ _ (by decide) rfl

theorem EncodeLength.movBLoadAbs8 (rd : Reg8) (abs : Byte) : EncodeLength.Statement (.movBLoadAbs8 rd abs) := 
  EncodeLength.one _ _ _ (EncodeLength.isLong_nibbles _ _ (by decide)) rfl

theorem EncodeLength.movBStoreAbs8 (rs : Reg8) (abs : Byte) : EncodeLength.Statement (.movBStoreAbs8 rs abs) := 
  EncodeLength.one _ _ _ (EncodeLength.isLong_nibbles _ _ (by decide)) rfl

theorem EncodeLength.bra (disp : Byte) : EncodeLength.Statement (.bra disp) := EncodeLength.one _ _ _ (by decide) rfl

theorem EncodeLength.brn (disp : Byte) : EncodeLength.Statement (.brn disp) := EncodeLength.one _ _ _ (by decide) rfl

theorem EncodeLength.bhi (disp : Byte) : EncodeLength.Statement (.bhi disp) := EncodeLength.one _ _ _ (by decide) rfl

theorem EncodeLength.bls (disp : Byte) : EncodeLength.Statement (.bls disp) := EncodeLength.one _ _ _ (by decide) rfl

theorem EncodeLength.bcc (disp : Byte) : EncodeLength.Statement (.bcc disp) := EncodeLength.one _ _ _ (by decide) rfl

theorem EncodeLength.bcs (disp : Byte) : EncodeLength.Statement (.bcs disp) := EncodeLength.one _ _ _ (by decide) rfl

theorem EncodeLength.bne (disp : Byte) : EncodeLength.Statement (.bne disp) := EncodeLength.one _ _ _ (by decide) rfl

theorem EncodeLength.beq (disp : Byte) : EncodeLength.Statement (.beq disp) := EncodeLength.one _ _ _ (by decide) rfl

theorem EncodeLength.bvc (disp : Byte) : EncodeLength.Statement (.bvc disp) := EncodeLength.one _ _ _ (by decide) rfl

theorem EncodeLength.bvs (disp : Byte) : EncodeLength.Statement (.bvs disp) := EncodeLength.one _ _ _ (by decide) rfl

theorem EncodeLength.bpl (disp : Byte) : EncodeLength.Statement (.bpl disp) := EncodeLength.one _ _ _ (by decide) rfl

theorem EncodeLength.bmi (disp : Byte) : EncodeLength.Statement (.bmi disp) := EncodeLength.one _ _ _ (by decide) rfl

theorem EncodeLength.bge (disp : Byte) : EncodeLength.Statement (.bge disp) := EncodeLength.one _ _ _ (by decide) rfl

theorem EncodeLength.blt (disp : Byte) : EncodeLength.Statement (.blt disp) := EncodeLength.one _ _ _ (by decide) rfl

theorem EncodeLength.bgt (disp : Byte) : EncodeLength.Statement (.bgt disp) := EncodeLength.one _ _ _ (by decide) rfl

theorem EncodeLength.ble (disp : Byte) : EncodeLength.Statement (.ble disp) := EncodeLength.one _ _ _ (by decide) rfl

theorem EncodeLength.mulxu (rs : Reg8) (rd : Reg16) : EncodeLength.Statement (.mulxu rs rd) := EncodeLength.one _ _ _ (by decide) rfl

theorem EncodeLength.divxu (rs : Reg8) (rd : Reg16) : EncodeLength.Statement (.divxu rs rd) := EncodeLength.one _ _ _ (by decide) rfl

theorem EncodeLength.rts : EncodeLength.Statement (.rts) := EncodeLength.one _ _ _ (by decide) rfl

theorem EncodeLength.bsr (disp : Byte) : EncodeLength.Statement (.bsr disp) := EncodeLength.one _ _ _ (by decide) rfl

theorem EncodeLength.rte : EncodeLength.Statement (.rte) := EncodeLength.one _ _ _ (by decide) rfl

theorem EncodeLength.jmpInd (rn : Reg16) : EncodeLength.Statement (.jmpInd rn) := EncodeLength.one _ _ _ (by decide) rfl

theorem EncodeLength.jmpAbs (abs : Word) : EncodeLength.Statement (.jmpAbs abs) := EncodeLength.two _ _ _ _ (by decide) rfl

theorem EncodeLength.jmpMem (abs : Byte) : EncodeLength.Statement (.jmpMem abs) := EncodeLength.one _ _ _ (by decide) rfl

theorem EncodeLength.jsrInd (rn : Reg16) : EncodeLength.Statement (.jsrInd rn) := EncodeLength.one _ _ _ (by decide) rfl

theorem EncodeLength.jsrAbs (abs : Word) : EncodeLength.Statement (.jsrAbs abs) := EncodeLength.two _ _ _ _ (by decide) rfl

theorem EncodeLength.jsrMem (abs : Byte) : EncodeLength.Statement (.jsrMem abs) := EncodeLength.one _ _ _ (by decide) rfl

theorem EncodeLength.bsetRegReg (rn : Reg8) (rd : Reg8) : EncodeLength.Statement (.bsetRegReg rn rd) := EncodeLength.one _ _ _ (by decide) rfl

theorem EncodeLength.bnotRegReg (rn : Reg8) (rd : Reg8) : EncodeLength.Statement (.bnotRegReg rn rd) := EncodeLength.one _ _ _ (by decide) rfl

theorem EncodeLength.bclrRegReg (rn : Reg8) (rd : Reg8) : EncodeLength.Statement (.bclrRegReg rn rd) := EncodeLength.one _ _ _ (by decide) rfl

theorem EncodeLength.btstRegReg (rn : Reg8) (rd : Reg8) : EncodeLength.Statement (.btstRegReg rn rd) := EncodeLength.one _ _ _ (by decide) rfl

theorem EncodeLength.bstImmReg (imm : Imm3) (rd : Reg8) : EncodeLength.Statement (.bstImmReg imm rd) := EncodeLength.one _ _ _ (by decide) rfl

theorem EncodeLength.bistImmReg (imm : Imm3) (rd : Reg8) : EncodeLength.Statement (.bistImmReg imm rd) := EncodeLength.one _ _ _ (by decide) rfl

theorem EncodeLength.bsetImmReg (imm : Imm3) (rd : Reg8) : EncodeLength.Statement (.bsetImmReg imm rd) := EncodeLength.one _ _ _ (by decide) rfl

theorem EncodeLength.bnotImmReg (imm : Imm3) (rd : Reg8) : EncodeLength.Statement (.bnotImmReg imm rd) := EncodeLength.one _ _ _ (by decide) rfl

theorem EncodeLength.bclrImmReg (imm : Imm3) (rd : Reg8) : EncodeLength.Statement (.bclrImmReg imm rd) := EncodeLength.one _ _ _ (by decide) rfl

theorem EncodeLength.btstImmReg (imm : Imm3) (rd : Reg8) : EncodeLength.Statement (.btstImmReg imm rd) := EncodeLength.one _ _ _ (by decide) rfl

theorem EncodeLength.borImmReg (imm : Imm3) (rd : Reg8) : EncodeLength.Statement (.borImmReg imm rd) := EncodeLength.one _ _ _ (by decide) rfl

theorem EncodeLength.biorImmReg (imm : Imm3) (rd : Reg8) : EncodeLength.Statement (.biorImmReg imm rd) := EncodeLength.one _ _ _ (by decide) rfl

theorem EncodeLength.bxorImmReg (imm : Imm3) (rd : Reg8) : EncodeLength.Statement (.bxorImmReg imm rd) := EncodeLength.one _ _ _ (by decide) rfl

theorem EncodeLength.bixorImmReg (imm : Imm3) (rd : Reg8) : EncodeLength.Statement (.bixorImmReg imm rd) := EncodeLength.one _ _ _ (by decide) rfl

theorem EncodeLength.bandImmReg (imm : Imm3) (rd : Reg8) : EncodeLength.Statement (.bandImmReg imm rd) := EncodeLength.one _ _ _ (by decide) rfl

theorem EncodeLength.biandImmReg (imm : Imm3) (rd : Reg8) : EncodeLength.Statement (.biandImmReg imm rd) := EncodeLength.one _ _ _ (by decide) rfl

theorem EncodeLength.bldImmReg (imm : Imm3) (rd : Reg8) : EncodeLength.Statement (.bldImmReg imm rd) := EncodeLength.one _ _ _ (by decide) rfl

theorem EncodeLength.bildImmReg (imm : Imm3) (rd : Reg8) : EncodeLength.Statement (.bildImmReg imm rd) := EncodeLength.one _ _ _ (by decide) rfl

theorem EncodeLength.movBLoadInd (rs : Reg16) (rd : Reg8) : EncodeLength.Statement (.movBLoadInd rs rd) := EncodeLength.one _ _ _ (by decide) rfl

theorem EncodeLength.movBStoreInd (rs : Reg8) (rd : Reg16) : EncodeLength.Statement (.movBStoreInd rs rd) := EncodeLength.one _ _ _ (by decide) rfl

theorem EncodeLength.movWLoadInd (rs : Reg16) (rd : Reg16) : EncodeLength.Statement (.movWLoadInd rs rd) := EncodeLength.one _ _ _ (by decide) rfl

theorem EncodeLength.movWStoreInd (rs : Reg16) (rd : Reg16) : EncodeLength.Statement (.movWStoreInd rs rd) := EncodeLength.one _ _ _ (by decide) rfl

theorem EncodeLength.movBLoadAbs16 (abs : Word) (rd : Reg8) : EncodeLength.Statement (.movBLoadAbs16 abs rd) := EncodeLength.two _ _ _ _ (by decide) rfl

theorem EncodeLength.movBStoreAbs16 (rs : Reg8) (abs : Word) : EncodeLength.Statement (.movBStoreAbs16 rs abs) := EncodeLength.two _ _ _ _ (by decide) rfl

theorem EncodeLength.movWLoadAbs16 (abs : Word) (rd : Reg16) : EncodeLength.Statement (.movWLoadAbs16 abs rd) := EncodeLength.two _ _ _ _ (by decide) rfl

theorem EncodeLength.movWStoreAbs16 (rs : Reg16) (abs : Word) : EncodeLength.Statement (.movWStoreAbs16 rs abs) := EncodeLength.two _ _ _ _ (by decide) rfl

theorem EncodeLength.movBPostInc (rs : Reg16) (rd : Reg8) : EncodeLength.Statement (.movBPostInc rs rd) := EncodeLength.one _ _ _ (by decide) rfl

theorem EncodeLength.movBPreDec (rs : Reg8) (rd : Reg16) : EncodeLength.Statement (.movBPreDec rs rd) := EncodeLength.one _ _ _ (by decide) rfl

theorem EncodeLength.movWPostInc (rs : Reg16) (rd : Reg16) : EncodeLength.Statement (.movWPostInc rs rd) := EncodeLength.one _ _ _ (by decide) rfl

theorem EncodeLength.movWPreDec (rs : Reg16) (rd : Reg16) : EncodeLength.Statement (.movWPreDec rs rd) := EncodeLength.one _ _ _ (by decide) rfl

theorem EncodeLength.pop (rn : Reg16) : EncodeLength.Statement (.pop rn) := EncodeLength.one _ _ _ (by decide) rfl

theorem EncodeLength.push (rn : Reg16) : EncodeLength.Statement (.push rn) := EncodeLength.one _ _ _ (by decide) rfl

theorem EncodeLength.movBLoadDisp (disp : Word) (rs : Reg16) (rd : Reg8) : EncodeLength.Statement (.movBLoadDisp disp rs rd) := EncodeLength.two _ _ _ _ (by decide) rfl

theorem EncodeLength.movBStoreDisp (rs : Reg8) (disp : Word) (rd : Reg16) : EncodeLength.Statement (.movBStoreDisp rs disp rd) := EncodeLength.two _ _ _ _ (by decide) rfl

theorem EncodeLength.movWLoadDisp (disp : Word) (rs : Reg16) (rd : Reg16) : EncodeLength.Statement (.movWLoadDisp disp rs rd) := EncodeLength.two _ _ _ _ (by decide) rfl

theorem EncodeLength.movWStoreDisp (rs : Reg16) (disp : Word) (rd : Reg16) : EncodeLength.Statement (.movWStoreDisp rs disp rd) := EncodeLength.two _ _ _ _ (by decide) rfl

theorem EncodeLength.movWImm (imm : Word) (rd : Reg16) : EncodeLength.Statement (.movWImm imm rd) := EncodeLength.two _ _ _ _ (by decide) rfl

theorem EncodeLength.eepmov : EncodeLength.Statement (.eepmov) := EncodeLength.two _ _ _ _ (by decide) rfl

theorem EncodeLength.btstImmInd (imm : Imm3) (rd : Reg16) : EncodeLength.Statement (.btstImmInd imm rd) := EncodeLength.two _ _ _ _ (by decide) rfl

theorem EncodeLength.btstImmAbs (imm : Imm3) (abs : Byte) : EncodeLength.Statement (.btstImmAbs imm abs) := EncodeLength.two _ _ _ _ (by decide) rfl

theorem EncodeLength.borImmInd (imm : Imm3) (rd : Reg16) : EncodeLength.Statement (.borImmInd imm rd) := EncodeLength.two _ _ _ _ (by decide) rfl

theorem EncodeLength.borImmAbs (imm : Imm3) (abs : Byte) : EncodeLength.Statement (.borImmAbs imm abs) := EncodeLength.two _ _ _ _ (by decide) rfl

theorem EncodeLength.biorImmInd (imm : Imm3) (rd : Reg16) : EncodeLength.Statement (.biorImmInd imm rd) := EncodeLength.two _ _ _ _ (by decide) rfl

theorem EncodeLength.biorImmAbs (imm : Imm3) (abs : Byte) : EncodeLength.Statement (.biorImmAbs imm abs) := EncodeLength.two _ _ _ _ (by decide) rfl

theorem EncodeLength.bxorImmInd (imm : Imm3) (rd : Reg16) : EncodeLength.Statement (.bxorImmInd imm rd) := EncodeLength.two _ _ _ _ (by decide) rfl

theorem EncodeLength.bxorImmAbs (imm : Imm3) (abs : Byte) : EncodeLength.Statement (.bxorImmAbs imm abs) := EncodeLength.two _ _ _ _ (by decide) rfl

theorem EncodeLength.bixorImmInd (imm : Imm3) (rd : Reg16) : EncodeLength.Statement (.bixorImmInd imm rd) := EncodeLength.two _ _ _ _ (by decide) rfl

theorem EncodeLength.bixorImmAbs (imm : Imm3) (abs : Byte) : EncodeLength.Statement (.bixorImmAbs imm abs) := EncodeLength.two _ _ _ _ (by decide) rfl

theorem EncodeLength.bandImmInd (imm : Imm3) (rd : Reg16) : EncodeLength.Statement (.bandImmInd imm rd) := EncodeLength.two _ _ _ _ (by decide) rfl

theorem EncodeLength.bandImmAbs (imm : Imm3) (abs : Byte) : EncodeLength.Statement (.bandImmAbs imm abs) := EncodeLength.two _ _ _ _ (by decide) rfl

theorem EncodeLength.biandImmInd (imm : Imm3) (rd : Reg16) : EncodeLength.Statement (.biandImmInd imm rd) := EncodeLength.two _ _ _ _ (by decide) rfl

theorem EncodeLength.biandImmAbs (imm : Imm3) (abs : Byte) : EncodeLength.Statement (.biandImmAbs imm abs) := EncodeLength.two _ _ _ _ (by decide) rfl

theorem EncodeLength.bldImmInd (imm : Imm3) (rd : Reg16) : EncodeLength.Statement (.bldImmInd imm rd) := EncodeLength.two _ _ _ _ (by decide) rfl

theorem EncodeLength.bldImmAbs (imm : Imm3) (abs : Byte) : EncodeLength.Statement (.bldImmAbs imm abs) := EncodeLength.two _ _ _ _ (by decide) rfl

theorem EncodeLength.bildImmInd (imm : Imm3) (rd : Reg16) : EncodeLength.Statement (.bildImmInd imm rd) := EncodeLength.two _ _ _ _ (by decide) rfl

theorem EncodeLength.bildImmAbs (imm : Imm3) (abs : Byte) : EncodeLength.Statement (.bildImmAbs imm abs) := EncodeLength.two _ _ _ _ (by decide) rfl

theorem EncodeLength.btstRegInd (rn : Reg8) (rd : Reg16) : EncodeLength.Statement (.btstRegInd rn rd) := EncodeLength.two _ _ _ _ (by decide) rfl

theorem EncodeLength.btstRegAbs (rn : Reg8) (abs : Byte) : EncodeLength.Statement (.btstRegAbs rn abs) := EncodeLength.two _ _ _ _ (by decide) rfl

theorem EncodeLength.bstImmInd (imm : Imm3) (rd : Reg16) : EncodeLength.Statement (.bstImmInd imm rd) := EncodeLength.two _ _ _ _ (by decide) rfl

theorem EncodeLength.bstImmAbs (imm : Imm3) (abs : Byte) : EncodeLength.Statement (.bstImmAbs imm abs) := EncodeLength.two _ _ _ _ (by decide) rfl

theorem EncodeLength.bistImmInd (imm : Imm3) (rd : Reg16) : EncodeLength.Statement (.bistImmInd imm rd) := EncodeLength.two _ _ _ _ (by decide) rfl

theorem EncodeLength.bistImmAbs (imm : Imm3) (abs : Byte) : EncodeLength.Statement (.bistImmAbs imm abs) := EncodeLength.two _ _ _ _ (by decide) rfl

theorem EncodeLength.bsetImmInd (imm : Imm3) (rd : Reg16) : EncodeLength.Statement (.bsetImmInd imm rd) := EncodeLength.two _ _ _ _ (by decide) rfl

theorem EncodeLength.bsetImmAbs (imm : Imm3) (abs : Byte) : EncodeLength.Statement (.bsetImmAbs imm abs) := EncodeLength.two _ _ _ _ (by decide) rfl

theorem EncodeLength.bnotImmInd (imm : Imm3) (rd : Reg16) : EncodeLength.Statement (.bnotImmInd imm rd) := EncodeLength.two _ _ _ _ (by decide) rfl

theorem EncodeLength.bnotImmAbs (imm : Imm3) (abs : Byte) : EncodeLength.Statement (.bnotImmAbs imm abs) := EncodeLength.two _ _ _ _ (by decide) rfl

theorem EncodeLength.bclrImmInd (imm : Imm3) (rd : Reg16) : EncodeLength.Statement (.bclrImmInd imm rd) := EncodeLength.two _ _ _ _ (by decide) rfl

theorem EncodeLength.bclrImmAbs (imm : Imm3) (abs : Byte) : EncodeLength.Statement (.bclrImmAbs imm abs) := EncodeLength.two _ _ _ _ (by decide) rfl

theorem EncodeLength.bsetRegInd (rn : Reg8) (rd : Reg16) : EncodeLength.Statement (.bsetRegInd rn rd) := EncodeLength.two _ _ _ _ (by decide) rfl

theorem EncodeLength.bsetRegAbs (rn : Reg8) (abs : Byte) : EncodeLength.Statement (.bsetRegAbs rn abs) := EncodeLength.two _ _ _ _ (by decide) rfl

theorem EncodeLength.bnotRegInd (rn : Reg8) (rd : Reg16) : EncodeLength.Statement (.bnotRegInd rn rd) := EncodeLength.two _ _ _ _ (by decide) rfl

theorem EncodeLength.bnotRegAbs (rn : Reg8) (abs : Byte) : EncodeLength.Statement (.bnotRegAbs rn abs) := EncodeLength.two _ _ _ _ (by decide) rfl

theorem EncodeLength.bclrRegInd (rn : Reg8) (rd : Reg16) : EncodeLength.Statement (.bclrRegInd rn rd) := EncodeLength.two _ _ _ _ (by decide) rfl

theorem EncodeLength.bclrRegAbs (rn : Reg8) (abs : Byte) : EncodeLength.Statement (.bclrRegAbs rn abs) := EncodeLength.two _ _ _ _ (by decide) rfl

theorem EncodeLength.addBImm (imm : Byte) (rd : Reg8) : EncodeLength.Statement (.addBImm imm rd) := 
  EncodeLength.one _ _ _ (EncodeLength.isLong_nibbles _ _ (by decide)) rfl

theorem EncodeLength.addxImm (imm : Byte) (rd : Reg8) : EncodeLength.Statement (.addxImm imm rd) := 
  EncodeLength.one _ _ _ (EncodeLength.isLong_nibbles _ _ (by decide)) rfl

theorem EncodeLength.cmpBImm (imm : Byte) (rd : Reg8) : EncodeLength.Statement (.cmpBImm imm rd) := 
  EncodeLength.one _ _ _ (EncodeLength.isLong_nibbles _ _ (by decide)) rfl

theorem EncodeLength.subxImm (imm : Byte) (rd : Reg8) : EncodeLength.Statement (.subxImm imm rd) := 
  EncodeLength.one _ _ _ (EncodeLength.isLong_nibbles _ _ (by decide)) rfl

theorem EncodeLength.orImm (imm : Byte) (rd : Reg8) : EncodeLength.Statement (.orImm imm rd) := 
  EncodeLength.one _ _ _ (EncodeLength.isLong_nibbles _ _ (by decide)) rfl

theorem EncodeLength.xorImm (imm : Byte) (rd : Reg8) : EncodeLength.Statement (.xorImm imm rd) := 
  EncodeLength.one _ _ _ (EncodeLength.isLong_nibbles _ _ (by decide)) rfl

theorem EncodeLength.andImm (imm : Byte) (rd : Reg8) : EncodeLength.Statement (.andImm imm rd) := 
  EncodeLength.one _ _ _ (EncodeLength.isLong_nibbles _ _ (by decide)) rfl

theorem EncodeLength.movBImm (imm : Byte) (rd : Reg8) : EncodeLength.Statement (.movBImm imm rd) := 
  EncodeLength.one _ _ _ (EncodeLength.isLong_nibbles _ _ (by decide)) rfl

end Sys2Proof.Laws
end

