-- ==== Sys2Proof/Machine/Assembly.lean ====
section
/-! DEFINITION. The assembly spelling of an instruction as the manual writes it: mnemonic, source, destination (spec/30_encoding.md
R105 to R107). Branch displacements are written as they are coded, since labels belong to the assembler. No step reads it. -/

namespace Sys2Proof.Machine

/-- One hexadecimal digit. -/
def hexDigit (n : Nibble) : String :=
  match n.toNat with
  | 0 => "0" | 1 => "1" | 2 => "2" | 3 => "3" | 4 => "4" | 5 => "5" | 6 => "6" | 7 => "7"
  | 8 => "8" | 9 => "9" | 10 => "A" | 11 => "B" | 12 => "C" | 13 => "D" | 14 => "E" | _ => "F"

/-- A byte in hexadecimal digits. -/
def hexByte (b : Byte) : String := hexDigit (hiNibble b) ++ hexDigit (loNibble b)

/-- An 8-bit constant, `H'xx` (spec/00_scope.md R9). -/
def asmByte (b : Byte) : String := "H'" ++ hexByte b

/-- A 16-bit constant, `H'xxxx`. -/
def asmWord (w : Word) : String := "H'" ++ hexByte (hiByte w) ++ hexByte (loByte w)

/-- An 8-bit absolute address of data, written as the address it stands for: `H'FFxx` (R92). -/
def asmAbs8 (b : Byte) : String := "H'FF" ++ hexByte b

/-- A 3-bit number. -/
def asmImm3 (n : Imm3) : String := hexDigit (nibbleOf false n)

/-- `R0` to `R7`; `SP` is a synonym of `R7` (R107 (a)). -/
def asmReg16 (n : Reg16) : String := "R" ++ hexDigit (nibbleOf false n)

/-- `R0H` to `R7H`, `R0L` to `R7L` (spec/10_state.md R32). -/
def asmReg8 (c : Reg8) : String := asmReg16 (low3 c) ++ (if topBit c then "L" else "H")

/-- The second names of four branches (R107 (b)). -/
def branchSynonyms : List (String × String) := [("BT", "BRA"), ("BF", "BRN"), ("BHS", "BCC"), ("BLO", "BCS")]

/-- The text of an instruction. -/
def asmText (i : Instr) : String :=
  match i with
  | .nop => "NOP"
  | .sleep => "SLEEP"
  | .stc rd => "STC CCR, " ++ asmReg8 rd
  | .ldcReg rs => "LDC " ++ asmReg8 rs ++ ", CCR"
  | .orc imm => "ORC #" ++ asmByte imm ++ ", CCR"
  | .xorc imm => "XORC #" ++ asmByte imm ++ ", CCR"
  | .andc imm => "ANDC #" ++ asmByte imm ++ ", CCR"
  | .ldcImm imm => "LDC #" ++ asmByte imm ++ ", CCR"
  | .addBReg rs rd => "ADD.B " ++ asmReg8 rs ++ ", " ++ asmReg8 rd
  | .addW rs rd => "ADD.W " ++ asmReg16 rs ++ ", " ++ asmReg16 rd
  | .inc rd => "INC " ++ asmReg8 rd
  | .adds1 rd => "ADDS #1, " ++ asmReg16 rd
  | .adds2 rd => "ADDS #2, " ++ asmReg16 rd
  | .movBReg rs rd => "MOV.B " ++ asmReg8 rs ++ ", " ++ asmReg8 rd
  | .movWReg rs rd => "MOV.W " ++ asmReg16 rs ++ ", " ++ asmReg16 rd
  | .addxReg rs rd => "ADDX " ++ asmReg8 rs ++ ", " ++ asmReg8 rd
  | .daa rd => "DAA " ++ asmReg8 rd
  | .shll rd => "SHLL " ++ asmReg8 rd
  | .shal rd => "SHAL " ++ asmReg8 rd
  | .shlr rd => "SHLR " ++ asmReg8 rd
  | .shar rd => "SHAR " ++ asmReg8 rd
  | .rotxl rd => "ROTXL " ++ asmReg8 rd
  | .rotl rd => "ROTL " ++ asmReg8 rd
  | .rotxr rd => "ROTXR " ++ asmReg8 rd
  | .rotr rd => "ROTR " ++ asmReg8 rd
  | .orReg rs rd => "OR " ++ asmReg8 rs ++ ", " ++ asmReg8 rd
  | .xorReg rs rd => "XOR " ++ asmReg8 rs ++ ", " ++ asmReg8 rd
  | .andReg rs rd => "AND " ++ asmReg8 rs ++ ", " ++ asmReg8 rd
  | .notReg rd => "NOT " ++ asmReg8 rd
  | .neg rd => "NEG " ++ asmReg8 rd
  | .subB rs rd => "SUB.B " ++ asmReg8 rs ++ ", " ++ asmReg8 rd
  | .subW rs rd => "SUB.W " ++ asmReg16 rs ++ ", " ++ asmReg16 rd
  | .dec rd => "DEC " ++ asmReg8 rd
  | .subs1 rd => "SUBS #1, " ++ asmReg16 rd
  | .subs2 rd => "SUBS #2, " ++ asmReg16 rd
  | .cmpBReg rs rd => "CMP.B " ++ asmReg8 rs ++ ", " ++ asmReg8 rd
  | .cmpW rs rd => "CMP.W " ++ asmReg16 rs ++ ", " ++ asmReg16 rd
  | .subxReg rs rd => "SUBX " ++ asmReg8 rs ++ ", " ++ asmReg8 rd
  | .das rd => "DAS " ++ asmReg8 rd
  | .movBLoadAbs8 rd abs => "MOV.B @" ++ asmAbs8 abs ++ ":8, " ++ asmReg8 rd
  | .movBStoreAbs8 rs abs => "MOV.B " ++ asmReg8 rs ++ ", @" ++ asmAbs8 abs ++ ":8"
  | .bra disp => "BRA " ++ asmByte disp ++ ":8"
  | .brn disp => "BRN " ++ asmByte disp ++ ":8"
  | .bhi disp => "BHI " ++ asmByte disp ++ ":8"
  | .bls disp => "BLS " ++ asmByte disp ++ ":8"
  | .bcc disp => "BCC " ++ asmByte disp ++ ":8"
  | .bcs disp => "BCS " ++ asmByte disp ++ ":8"
  | .bne disp => "BNE " ++ asmByte disp ++ ":8"
  | .beq disp => "BEQ " ++ asmByte disp ++ ":8"
  | .bvc disp => "BVC " ++ asmByte disp ++ ":8"
  | .bvs disp => "BVS " ++ asmByte disp ++ ":8"
  | .bpl disp => "BPL " ++ asmByte disp ++ ":8"
  | .bmi disp => "BMI " ++ asmByte disp ++ ":8"
  | .bge disp => "BGE " ++ asmByte disp ++ ":8"
  | .blt disp => "BLT " ++ asmByte disp ++ ":8"
  | .bgt disp => "BGT " ++ asmByte disp ++ ":8"
  | .ble disp => "BLE " ++ asmByte disp ++ ":8"
  | .mulxu rs rd => "MULXU " ++ asmReg8 rs ++ ", " ++ asmReg16 rd
  | .divxu rs rd => "DIVXU " ++ asmReg8 rs ++ ", " ++ asmReg16 rd
  | .rts => "RTS"
  | .bsr disp => "BSR " ++ asmByte disp ++ ":8"
  | .rte => "RTE"
  | .jmpInd rn => "JMP @" ++ asmReg16 rn
  | .jmpAbs abs => "JMP @" ++ asmWord abs ++ ":16"
  | .jmpMem abs => "JMP @@" ++ asmByte abs
  | .jsrInd rn => "JSR @" ++ asmReg16 rn
  | .jsrAbs abs => "JSR @" ++ asmWord abs ++ ":16"
  | .jsrMem abs => "JSR @@" ++ asmByte abs
  | .bsetRegReg rn rd => "BSET " ++ asmReg8 rn ++ ", " ++ asmReg8 rd
  | .bnotRegReg rn rd => "BNOT " ++ asmReg8 rn ++ ", " ++ asmReg8 rd
  | .bclrRegReg rn rd => "BCLR " ++ asmReg8 rn ++ ", " ++ asmReg8 rd
  | .btstRegReg rn rd => "BTST " ++ asmReg8 rn ++ ", " ++ asmReg8 rd
  | .bstImmReg imm rd => "BST #" ++ asmImm3 imm ++ ", " ++ asmReg8 rd
  | .bistImmReg imm rd => "BIST #" ++ asmImm3 imm ++ ", " ++ asmReg8 rd
  | .bsetImmReg imm rd => "BSET #" ++ asmImm3 imm ++ ", " ++ asmReg8 rd
  | .bnotImmReg imm rd => "BNOT #" ++ asmImm3 imm ++ ", " ++ asmReg8 rd
  | .bclrImmReg imm rd => "BCLR #" ++ asmImm3 imm ++ ", " ++ asmReg8 rd
  | .btstImmReg imm rd => "BTST #" ++ asmImm3 imm ++ ", " ++ asmReg8 rd
  | .borImmReg imm rd => "BOR #" ++ asmImm3 imm ++ ", " ++ asmReg8 rd
  | .biorImmReg imm rd => "BIOR #" ++ asmImm3 imm ++ ", " ++ asmReg8 rd
  | .bxorImmReg imm rd => "BXOR #" ++ asmImm3 imm ++ ", " ++ asmReg8 rd
  | .bixorImmReg imm rd => "BIXOR #" ++ asmImm3 imm ++ ", " ++ asmReg8 rd
  | .bandImmReg imm rd => "BAND #" ++ asmImm3 imm ++ ", " ++ asmReg8 rd
  | .biandImmReg imm rd => "BIAND #" ++ asmImm3 imm ++ ", " ++ asmReg8 rd
  | .bldImmReg imm rd => "BLD #" ++ asmImm3 imm ++ ", " ++ asmReg8 rd
  | .bildImmReg imm rd => "BILD #" ++ asmImm3 imm ++ ", " ++ asmReg8 rd
  | .movBLoadInd rs rd => "MOV.B @" ++ asmReg16 rs ++ ", " ++ asmReg8 rd
  | .movBStoreInd rs rd => "MOV.B " ++ asmReg8 rs ++ ", @" ++ asmReg16 rd
  | .movWLoadInd rs rd => "MOV.W @" ++ asmReg16 rs ++ ", " ++ asmReg16 rd
  | .movWStoreInd rs rd => "MOV.W " ++ asmReg16 rs ++ ", @" ++ asmReg16 rd
  | .movBLoadAbs16 abs rd => "MOV.B @" ++ asmWord abs ++ ":16, " ++ asmReg8 rd
  | .movBStoreAbs16 rs abs => "MOV.B " ++ asmReg8 rs ++ ", @" ++ asmWord abs ++ ":16"
  | .movWLoadAbs16 abs rd => "MOV.W @" ++ asmWord abs ++ ":16, " ++ asmReg16 rd
  | .movWStoreAbs16 rs abs => "MOV.W " ++ asmReg16 rs ++ ", @" ++ asmWord abs ++ ":16"
  | .movBPostInc rs rd => "MOV.B @" ++ asmReg16 rs ++ "+, " ++ asmReg8 rd
  | .movBPreDec rs rd => "MOV.B " ++ asmReg8 rs ++ ", @-" ++ asmReg16 rd
  | .movWPostInc rs rd => "MOV.W @" ++ asmReg16 rs ++ "+, " ++ asmReg16 rd
  | .movWPreDec rs rd => "MOV.W " ++ asmReg16 rs ++ ", @-" ++ asmReg16 rd
  | .pop rn => "POP " ++ asmReg16 rn
  | .push rn => "PUSH " ++ asmReg16 rn
  | .movBLoadDisp disp rs rd => "MOV.B @(" ++ asmWord disp ++ ":16, " ++ asmReg16 rs ++ "), " ++ asmReg8 rd
  | .movBStoreDisp rs disp rd => "MOV.B " ++ asmReg8 rs ++ ", @(" ++ asmWord disp ++ ":16, " ++ asmReg16 rd ++ ")"
  | .movWLoadDisp disp rs rd => "MOV.W @(" ++ asmWord disp ++ ":16, " ++ asmReg16 rs ++ "), " ++ asmReg16 rd
  | .movWStoreDisp rs disp rd => "MOV.W " ++ asmReg16 rs ++ ", @(" ++ asmWord disp ++ ":16, " ++ asmReg16 rd ++ ")"
  | .movWImm imm rd => "MOV.W #" ++ asmWord imm ++ ", " ++ asmReg16 rd
  | .eepmov => "EEPMOV"
  | .btstImmInd imm rd => "BTST #" ++ asmImm3 imm ++ ", @" ++ asmReg16 rd
  | .btstImmAbs imm abs => "BTST #" ++ asmImm3 imm ++ ", @" ++ asmAbs8 abs ++ ":8"
  | .borImmInd imm rd => "BOR #" ++ asmImm3 imm ++ ", @" ++ asmReg16 rd
  | .borImmAbs imm abs => "BOR #" ++ asmImm3 imm ++ ", @" ++ asmAbs8 abs ++ ":8"
  | .biorImmInd imm rd => "BIOR #" ++ asmImm3 imm ++ ", @" ++ asmReg16 rd
  | .biorImmAbs imm abs => "BIOR #" ++ asmImm3 imm ++ ", @" ++ asmAbs8 abs ++ ":8"
  | .bxorImmInd imm rd => "BXOR #" ++ asmImm3 imm ++ ", @" ++ asmReg16 rd
  | .bxorImmAbs imm abs => "BXOR #" ++ asmImm3 imm ++ ", @" ++ asmAbs8 abs ++ ":8"
  | .bixorImmInd imm rd => "BIXOR #" ++ asmImm3 imm ++ ", @" ++ asmReg16 rd
  | .bixorImmAbs imm abs => "BIXOR #" ++ asmImm3 imm ++ ", @" ++ asmAbs8 abs ++ ":8"
  | .bandImmInd imm rd => "BAND #" ++ asmImm3 imm ++ ", @" ++ asmReg16 rd
  | .bandImmAbs imm abs => "BAND #" ++ asmImm3 imm ++ ", @" ++ asmAbs8 abs ++ ":8"
  | .biandImmInd imm rd => "BIAND #" ++ asmImm3 imm ++ ", @" ++ asmReg16 rd
  | .biandImmAbs imm abs => "BIAND #" ++ asmImm3 imm ++ ", @" ++ asmAbs8 abs ++ ":8"
  | .bldImmInd imm rd => "BLD #" ++ asmImm3 imm ++ ", @" ++ asmReg16 rd
  | .bldImmAbs imm abs => "BLD #" ++ asmImm3 imm ++ ", @" ++ asmAbs8 abs ++ ":8"
  | .bildImmInd imm rd => "BILD #" ++ asmImm3 imm ++ ", @" ++ asmReg16 rd
  | .bildImmAbs imm abs => "BILD #" ++ asmImm3 imm ++ ", @" ++ asmAbs8 abs ++ ":8"
  | .btstRegInd rn rd => "BTST " ++ asmReg8 rn ++ ", @" ++ asmReg16 rd
  | .btstRegAbs rn abs => "BTST " ++ asmReg8 rn ++ ", @" ++ asmAbs8 abs ++ ":8"
  | .bstImmInd imm rd => "BST #" ++ asmImm3 imm ++ ", @" ++ asmReg16 rd
  | .bstImmAbs imm abs => "BST #" ++ asmImm3 imm ++ ", @" ++ asmAbs8 abs ++ ":8"
  | .bistImmInd imm rd => "BIST #" ++ asmImm3 imm ++ ", @" ++ asmReg16 rd
  | .bistImmAbs imm abs => "BIST #" ++ asmImm3 imm ++ ", @" ++ asmAbs8 abs ++ ":8"
  | .bsetImmInd imm rd => "BSET #" ++ asmImm3 imm ++ ", @" ++ asmReg16 rd
  | .bsetImmAbs imm abs => "BSET #" ++ asmImm3 imm ++ ", @" ++ asmAbs8 abs ++ ":8"
  | .bnotImmInd imm rd => "BNOT #" ++ asmImm3 imm ++ ", @" ++ asmReg16 rd
  | .bnotImmAbs imm abs => "BNOT #" ++ asmImm3 imm ++ ", @" ++ asmAbs8 abs ++ ":8"
  | .bclrImmInd imm rd => "BCLR #" ++ asmImm3 imm ++ ", @" ++ asmReg16 rd
  | .bclrImmAbs imm abs => "BCLR #" ++ asmImm3 imm ++ ", @" ++ asmAbs8 abs ++ ":8"
  | .bsetRegInd rn rd => "BSET " ++ asmReg8 rn ++ ", @" ++ asmReg16 rd
  | .bsetRegAbs rn abs => "BSET " ++ asmReg8 rn ++ ", @" ++ asmAbs8 abs ++ ":8"
  | .bnotRegInd rn rd => "BNOT " ++ asmReg8 rn ++ ", @" ++ asmReg16 rd
  | .bnotRegAbs rn abs => "BNOT " ++ asmReg8 rn ++ ", @" ++ asmAbs8 abs ++ ":8"
  | .bclrRegInd rn rd => "BCLR " ++ asmReg8 rn ++ ", @" ++ asmReg16 rd
  | .bclrRegAbs rn abs => "BCLR " ++ asmReg8 rn ++ ", @" ++ asmAbs8 abs ++ ":8"
  | .addBImm imm rd => "ADD.B #" ++ asmByte imm ++ ", " ++ asmReg8 rd
  | .addxImm imm rd => "ADDX #" ++ asmByte imm ++ ", " ++ asmReg8 rd
  | .cmpBImm imm rd => "CMP.B #" ++ asmByte imm ++ ", " ++ asmReg8 rd
  | .subxImm imm rd => "SUBX #" ++ asmByte imm ++ ", " ++ asmReg8 rd
  | .orImm imm rd => "OR #" ++ asmByte imm ++ ", " ++ asmReg8 rd
  | .xorImm imm rd => "XOR #" ++ asmByte imm ++ ", " ++ asmReg8 rd
  | .andImm imm rd => "AND #" ++ asmByte imm ++ ", " ++ asmReg8 rd
  | .movBImm imm rd => "MOV.B #" ++ asmByte imm ++ ", " ++ asmReg8 rd

end Sys2Proof.Machine
end

