-- ==== Sys2Proof/Tests/Slice0.lean ====
section
/-! SUPPORT. The model's own tests: the WellFormed smoke, every instruction's decoding from a word written out from the code rows of
spec/30_encoding.md R98, single steps from the vectors of spec/95_test_vectors.md, and for every statement with hypotheses a state
and operands that meet them. -/

namespace Sys2Proof.Tests

open Sys2Proof Sys2Proof.Machine

/-! ### WellFormed -/

theorem test_wf_refuses_mov_from_r7_post_increment : Instr.wf (.movWPostInc 7#3 0#3) = false := by decide

theorem test_wf_refuses_mov_to_r7_pre_decrement : Instr.wf (.movWPreDec 0#3 7#3) = false := by decide

theorem test_wf_accepts_pop_and_push : Instr.wf (.pop 7#3) = true ∧ Instr.wf (.push 7#3) = true := by decide

/-! ### Decoding, every constructor, from R98's rows: 8-bit registers rs = R1L, rd = R2H, rn = R4L; 16-bit registers rs = R3,
rd = R6, rn = R5; bit number 5 -/

theorem test_decode_system : ∀ p ∈ ([
    ([0x00#8, 0x00#8], .nop),
    ([0x01#8, 0x80#8], .sleep),
    ([0x02#8, 0x02#8], .stc 2#4),
    ([0x03#8, 0x09#8], .ldcReg 9#4),
    ([0x04#8, 0xA5#8], .orc 0xA5#8),
    ([0x05#8, 0xA5#8], .xorc 0xA5#8),
    ([0x06#8, 0xA5#8], .andc 0xA5#8),
    ([0x07#8, 0xA5#8], .ldcImm 0xA5#8),
    ([0x56#8, 0x70#8], .rte)] : List (List Byte × Instr)), decode p.1 = .ok (p.2, []) := by decide

theorem test_decode_move_byte : ∀ p ∈ ([
    ([0x0C#8, 0x92#8], .movBReg 9#4 2#4),
    ([0x22#8, 0x9C#8], .movBLoadAbs8 2#4 0x9C#8),
    ([0x39#8, 0x9C#8], .movBStoreAbs8 9#4 0x9C#8),
    ([0x68#8, 0x32#8], .movBLoadInd 3#3 2#4),
    ([0x68#8, 0xE9#8], .movBStoreInd 9#4 6#3),
    ([0x6A#8, 0x02#8, 0xFB#8, 0x34#8], .movBLoadAbs16 0xFB34#16 2#4),
    ([0x6A#8, 0x89#8, 0xFB#8, 0x34#8], .movBStoreAbs16 9#4 0xFB34#16),
    ([0x6C#8, 0x32#8], .movBPostInc 3#3 2#4),
    ([0x6C#8, 0xE9#8], .movBPreDec 9#4 6#3),
    ([0x6E#8, 0x32#8, 0xFB#8, 0x34#8], .movBLoadDisp 0xFB34#16 3#3 2#4),
    ([0x6E#8, 0xE9#8, 0xFB#8, 0x34#8], .movBStoreDisp 9#4 0xFB34#16 6#3),
    ([0xF2#8, 0xA5#8], .movBImm 0xA5#8 2#4)] : List (List Byte × Instr)), decode p.1 = .ok (p.2, []) := by decide

theorem test_decode_move_word : ∀ p ∈ ([
    ([0x0D#8, 0x36#8], .movWReg 3#3 6#3),
    ([0x69#8, 0x36#8], .movWLoadInd 3#3 6#3),
    ([0x69#8, 0xE3#8], .movWStoreInd 3#3 6#3),
    ([0x6B#8, 0x06#8, 0xFB#8, 0x34#8], .movWLoadAbs16 0xFB34#16 6#3),
    ([0x6B#8, 0x83#8, 0xFB#8, 0x34#8], .movWStoreAbs16 3#3 0xFB34#16),
    ([0x6D#8, 0x36#8], .movWPostInc 3#3 6#3),
    ([0x6D#8, 0xE3#8], .movWPreDec 3#3 6#3),
    ([0x6F#8, 0x36#8, 0xFB#8, 0x34#8], .movWLoadDisp 0xFB34#16 3#3 6#3),
    ([0x6F#8, 0xE3#8, 0xFB#8, 0x34#8], .movWStoreDisp 3#3 0xFB34#16 6#3),
    ([0x79#8, 0x06#8, 0xFB#8, 0x34#8], .movWImm 0xFB34#16 6#3),
    ([0x6D#8, 0x75#8], .pop 5#3),
    ([0x6D#8, 0xF5#8], .push 5#3)] : List (List Byte × Instr)), decode p.1 = .ok (p.2, []) := by decide

theorem test_decode_branch : ∀ p ∈ ([
    ([0x40#8, 0xFA#8], .bra 0xFA#8),
    ([0x41#8, 0xFA#8], .brn 0xFA#8),
    ([0x42#8, 0xFA#8], .bhi 0xFA#8),
    ([0x43#8, 0xFA#8], .bls 0xFA#8),
    ([0x44#8, 0xFA#8], .bcc 0xFA#8),
    ([0x45#8, 0xFA#8], .bcs 0xFA#8),
    ([0x46#8, 0xFA#8], .bne 0xFA#8),
    ([0x47#8, 0xFA#8], .beq 0xFA#8),
    ([0x48#8, 0xFA#8], .bvc 0xFA#8),
    ([0x49#8, 0xFA#8], .bvs 0xFA#8),
    ([0x4A#8, 0xFA#8], .bpl 0xFA#8),
    ([0x4B#8, 0xFA#8], .bmi 0xFA#8),
    ([0x4C#8, 0xFA#8], .bge 0xFA#8),
    ([0x4D#8, 0xFA#8], .blt 0xFA#8),
    ([0x4E#8, 0xFA#8], .bgt 0xFA#8),
    ([0x4F#8, 0xFA#8], .ble 0xFA#8),
    ([0x55#8, 0xFA#8], .bsr 0xFA#8)] : List (List Byte × Instr)), decode p.1 = .ok (p.2, []) := by decide

theorem test_decode_jump : ∀ p ∈ ([
    ([0x59#8, 0x50#8], .jmpInd 5#3),
    ([0x5A#8, 0x00#8, 0xFB#8, 0x34#8], .jmpAbs 0xFB34#16),
    ([0x5B#8, 0x9C#8], .jmpMem 0x9C#8),
    ([0x5D#8, 0x50#8], .jsrInd 5#3),
    ([0x5E#8, 0x00#8, 0xFB#8, 0x34#8], .jsrAbs 0xFB34#16),
    ([0x5F#8, 0x9C#8], .jsrMem 0x9C#8),
    ([0x54#8, 0x70#8], .rts)] : List (List Byte × Instr)), decode p.1 = .ok (p.2, []) := by decide

theorem test_decode_add : ∀ p ∈ ([
    ([0x82#8, 0xA5#8], .addBImm 0xA5#8 2#4),
    ([0x08#8, 0x92#8], .addBReg 9#4 2#4),
    ([0x09#8, 0x36#8], .addW 3#3 6#3),
    ([0x0B#8, 0x06#8], .adds1 6#3),
    ([0x0B#8, 0x86#8], .adds2 6#3),
    ([0x92#8, 0xA5#8], .addxImm 0xA5#8 2#4),
    ([0x0E#8, 0x92#8], .addxReg 9#4 2#4),
    ([0x0A#8, 0x02#8], .inc 2#4),
    ([0x0F#8, 0x02#8], .daa 2#4),
    ([0x50#8, 0x96#8], .mulxu 9#4 6#3)] : List (List Byte × Instr)), decode p.1 = .ok (p.2, []) := by decide

theorem test_decode_subtract : ∀ p ∈ ([
    ([0x18#8, 0x92#8], .subB 9#4 2#4),
    ([0x19#8, 0x36#8], .subW 3#3 6#3),
    ([0x1B#8, 0x06#8], .subs1 6#3),
    ([0x1B#8, 0x86#8], .subs2 6#3),
    ([0xB2#8, 0xA5#8], .subxImm 0xA5#8 2#4),
    ([0x1E#8, 0x92#8], .subxReg 9#4 2#4),
    ([0x1A#8, 0x02#8], .dec 2#4),
    ([0x1F#8, 0x02#8], .das 2#4),
    ([0xA2#8, 0xA5#8], .cmpBImm 0xA5#8 2#4),
    ([0x1C#8, 0x92#8], .cmpBReg 9#4 2#4),
    ([0x1D#8, 0x36#8], .cmpW 3#3 6#3),
    ([0x17#8, 0x82#8], .neg 2#4),
    ([0x51#8, 0x96#8], .divxu 9#4 6#3)] : List (List Byte × Instr)), decode p.1 = .ok (p.2, []) := by decide

theorem test_decode_logic : ∀ p ∈ ([
    ([0xE2#8, 0xA5#8], .andImm 0xA5#8 2#4),
    ([0x16#8, 0x92#8], .andReg 9#4 2#4),
    ([0xC2#8, 0xA5#8], .orImm 0xA5#8 2#4),
    ([0x14#8, 0x92#8], .orReg 9#4 2#4),
    ([0xD2#8, 0xA5#8], .xorImm 0xA5#8 2#4),
    ([0x15#8, 0x92#8], .xorReg 9#4 2#4),
    ([0x17#8, 0x02#8], .notReg 2#4)] : List (List Byte × Instr)), decode p.1 = .ok (p.2, []) := by decide

theorem test_decode_shift : ∀ p ∈ ([
    ([0x10#8, 0x82#8], .shal 2#4),
    ([0x11#8, 0x82#8], .shar 2#4),
    ([0x10#8, 0x02#8], .shll 2#4),
    ([0x11#8, 0x02#8], .shlr 2#4),
    ([0x12#8, 0x82#8], .rotl 2#4),
    ([0x13#8, 0x82#8], .rotr 2#4),
    ([0x12#8, 0x02#8], .rotxl 2#4),
    ([0x13#8, 0x02#8], .rotxr 2#4)] : List (List Byte × Instr)), decode p.1 = .ok (p.2, []) := by decide

theorem test_decode_block_transfer : ∀ p ∈ ([
    ([0x7B#8, 0x5C#8, 0x59#8, 0x8F#8], .eepmov)] : List (List Byte × Instr)), decode p.1 = .ok (p.2, []) := by decide

theorem test_decode_bit_register : ∀ p ∈ ([
    ([0x60#8, 0xC2#8], .bsetRegReg 12#4 2#4),
    ([0x61#8, 0xC2#8], .bnotRegReg 12#4 2#4),
    ([0x62#8, 0xC2#8], .bclrRegReg 12#4 2#4),
    ([0x63#8, 0xC2#8], .btstRegReg 12#4 2#4),
    ([0x67#8, 0x52#8], .bstImmReg 5#3 2#4),
    ([0x67#8, 0xD2#8], .bistImmReg 5#3 2#4),
    ([0x70#8, 0x52#8], .bsetImmReg 5#3 2#4),
    ([0x71#8, 0x52#8], .bnotImmReg 5#3 2#4),
    ([0x72#8, 0x52#8], .bclrImmReg 5#3 2#4),
    ([0x73#8, 0x52#8], .btstImmReg 5#3 2#4),
    ([0x74#8, 0x52#8], .borImmReg 5#3 2#4),
    ([0x74#8, 0xD2#8], .biorImmReg 5#3 2#4),
    ([0x75#8, 0x52#8], .bxorImmReg 5#3 2#4),
    ([0x75#8, 0xD2#8], .bixorImmReg 5#3 2#4),
    ([0x76#8, 0x52#8], .bandImmReg 5#3 2#4),
    ([0x76#8, 0xD2#8], .biandImmReg 5#3 2#4),
    ([0x77#8, 0x52#8], .bldImmReg 5#3 2#4),
    ([0x77#8, 0xD2#8], .bildImmReg 5#3 2#4)] : List (List Byte × Instr)), decode p.1 = .ok (p.2, []) := by decide

theorem test_decode_bit_test_memory : ∀ p ∈ ([
    ([0x7C#8, 0x60#8, 0x73#8, 0x50#8], .btstImmInd 5#3 6#3),
    ([0x7E#8, 0x9C#8, 0x73#8, 0x50#8], .btstImmAbs 5#3 0x9C#8),
    ([0x7C#8, 0x60#8, 0x74#8, 0x50#8], .borImmInd 5#3 6#3),
    ([0x7E#8, 0x9C#8, 0x74#8, 0x50#8], .borImmAbs 5#3 0x9C#8),
    ([0x7C#8, 0x60#8, 0x74#8, 0xD0#8], .biorImmInd 5#3 6#3),
    ([0x7E#8, 0x9C#8, 0x74#8, 0xD0#8], .biorImmAbs 5#3 0x9C#8),
    ([0x7C#8, 0x60#8, 0x75#8, 0x50#8], .bxorImmInd 5#3 6#3),
    ([0x7E#8, 0x9C#8, 0x75#8, 0x50#8], .bxorImmAbs 5#3 0x9C#8),
    ([0x7C#8, 0x60#8, 0x75#8, 0xD0#8], .bixorImmInd 5#3 6#3),
    ([0x7E#8, 0x9C#8, 0x75#8, 0xD0#8], .bixorImmAbs 5#3 0x9C#8),
    ([0x7C#8, 0x60#8, 0x76#8, 0x50#8], .bandImmInd 5#3 6#3),
    ([0x7E#8, 0x9C#8, 0x76#8, 0x50#8], .bandImmAbs 5#3 0x9C#8),
    ([0x7C#8, 0x60#8, 0x76#8, 0xD0#8], .biandImmInd 5#3 6#3),
    ([0x7E#8, 0x9C#8, 0x76#8, 0xD0#8], .biandImmAbs 5#3 0x9C#8),
    ([0x7C#8, 0x60#8, 0x77#8, 0x50#8], .bldImmInd 5#3 6#3),
    ([0x7E#8, 0x9C#8, 0x77#8, 0x50#8], .bldImmAbs 5#3 0x9C#8),
    ([0x7C#8, 0x60#8, 0x77#8, 0xD0#8], .bildImmInd 5#3 6#3),
    ([0x7E#8, 0x9C#8, 0x77#8, 0xD0#8], .bildImmAbs 5#3 0x9C#8),
    ([0x7C#8, 0x60#8, 0x63#8, 0xC0#8], .btstRegInd 12#4 6#3),
    ([0x7E#8, 0x9C#8, 0x63#8, 0xC0#8], .btstRegAbs 12#4 0x9C#8)] : List (List Byte × Instr)), decode p.1 = .ok (p.2, []) := by decide

theorem test_decode_bit_modify_memory : ∀ p ∈ ([
    ([0x7D#8, 0x60#8, 0x67#8, 0x50#8], .bstImmInd 5#3 6#3),
    ([0x7F#8, 0x9C#8, 0x67#8, 0x50#8], .bstImmAbs 5#3 0x9C#8),
    ([0x7D#8, 0x60#8, 0x67#8, 0xD0#8], .bistImmInd 5#3 6#3),
    ([0x7F#8, 0x9C#8, 0x67#8, 0xD0#8], .bistImmAbs 5#3 0x9C#8),
    ([0x7D#8, 0x60#8, 0x70#8, 0x50#8], .bsetImmInd 5#3 6#3),
    ([0x7F#8, 0x9C#8, 0x70#8, 0x50#8], .bsetImmAbs 5#3 0x9C#8),
    ([0x7D#8, 0x60#8, 0x71#8, 0x50#8], .bnotImmInd 5#3 6#3),
    ([0x7F#8, 0x9C#8, 0x71#8, 0x50#8], .bnotImmAbs 5#3 0x9C#8),
    ([0x7D#8, 0x60#8, 0x72#8, 0x50#8], .bclrImmInd 5#3 6#3),
    ([0x7F#8, 0x9C#8, 0x72#8, 0x50#8], .bclrImmAbs 5#3 0x9C#8),
    ([0x7D#8, 0x60#8, 0x60#8, 0xC0#8], .bsetRegInd 12#4 6#3),
    ([0x7F#8, 0x9C#8, 0x60#8, 0xC0#8], .bsetRegAbs 12#4 0x9C#8),
    ([0x7D#8, 0x60#8, 0x61#8, 0xC0#8], .bnotRegInd 12#4 6#3),
    ([0x7F#8, 0x9C#8, 0x61#8, 0xC0#8], .bnotRegAbs 12#4 0x9C#8),
    ([0x7D#8, 0x60#8, 0x62#8, 0xC0#8], .bclrRegInd 12#4 6#3),
    ([0x7F#8, 0x9C#8, 0x62#8, 0xC0#8], .bclrRegAbs 12#4 0x9C#8)] : List (List Byte × Instr)), decode p.1 = .ok (p.2, []) := by decide

/-- Each line has one wrong fixed bit or an unassigned first byte (spec/95_test_vectors.md X1, X11, X14, X19, X20, X25, X28). -/
theorem test_decode_refuses :
    decode [0x52#8, 0x00#8] = .error .unassignedFirstByte ∧
    decode [0x00#8, 0x01#8] = .error .fixedBits ∧
    decode [0x09#8, 0x80#8] = .error .fixedBits ∧
    decode [0x70#8, 0x80#8] = .error .fixedBits ∧
    decode [0x7C#8, 0x00#8, 0x70#8, 0x00#8] = .error .secondWord ∧
    decode [0x7B#8, 0x5C#8, 0x59#8, 0x8E#8] = .error .secondWord ∧
    decode [0x51#8, 0x08#8] = .error .fixedBits := by decide

/-- The two ways a table word is laid out: `JMP @H'1234:16` as the first word above the second, and `MOV.W R1, R2`. -/
theorem test_decode_table_word :
    decodeTableWord 32 0x5A001234 = some (.jmpAbs 0x1234#16) ∧ decodeTableWord 16 0x0D12 = some (.movWReg 1#3 2#3) := by decide

/-! ### One step -/

/-- The chip of `State.reset` at a PC with code there, some registers and some bytes of memory set, and no interrupt held off. -/
def start (pc : Addr) (code : List Byte) (regs : List (Reg16 × Word)) (ccr : Byte) (data : List (Nat × Byte)) : State :=
  regs.foldl (fun s r => s.setR16 r.1 r.2)
    { State.reset with
      pc := pc
      ccr := ccr
      irqInhibit := false
      mem := Memory.place (data.foldl (fun m c => Memory.write m c.1 c.2) []) pc code }

/-- Some registers, the CCR, the PC and some bytes of memory after one step. -/
def after (s : State) (regs : List Reg16) (bytes : List Addr) : Option (List Word × Byte × Addr × List Byte) :=
  match step s with
  | .next t => some (regs.map t.r16, t.ccr, t.pc, bytes.map t.mem8)
  | .fault _ => none
  | .refused _ => none

/-- A1: `ADD.B #H'01, R0L`. -/
theorem test_step_add_bimm_a1 :
    after (start 0x0100#16 [0x88#8, 0x01#8] [(0#3, 0x00FF#16)] 0x00#8 []) [0#3] [] =
      some ([0x0000#16], 0x25#8, 0x0102#16, []) := by decide

/-- A3: `ADD.B R1L, R0L`. -/
theorem test_step_add_breg_a3 :
    after (start 0x0100#16 [0x08#8, 0x98#8] [(0#3, 0x0080#16), (1#3, 0x0080#16)] 0x00#8 []) [0#3] [] =
      some ([0x0000#16], 0x07#8, 0x0102#16, []) := by decide

/-- A8: `ADD.W R1, R0`. -/
theorem test_step_add_w_a8 :
    after (start 0x0100#16 [0x09#8, 0x10#8] [(0#3, 0x0F00#16), (1#3, 0x0100#16)] 0x00#8 []) [0#3] [] =
      some ([0x1000#16], 0x20#8, 0x0102#16, []) := by decide

/-- A12: `ADDX #H'00, R0L`. -/
theorem test_step_addx_imm_a12 :
    after (start 0x0100#16 [0x98#8, 0x00#8] [] 0x00#8 []) [] [] =
      some ([], 0x00#8, 0x0102#16, []) := by decide

/-- A10: `ADDX R1H, R0H`. -/
theorem test_step_addx_reg_a10 :
    after (start 0x0100#16 [0x0E#8, 0x10#8] [(1#3, 0x7F00#16)] 0x05#8 []) [0#3] [] =
      some ([0x8000#16], 0x2A#8, 0x0102#16, []) := by decide

/-- A14: `INC R0L`. -/
theorem test_step_inc_a14 :
    after (start 0x0100#16 [0x0A#8, 0x08#8] [(0#3, 0x007F#16)] 0x00#8 []) [0#3] [] =
      some ([0x0080#16], 0x0A#8, 0x0102#16, []) := by decide

/-- A16: `DEC R0L`. -/
theorem test_step_dec_a16 :
    after (start 0x0100#16 [0x1A#8, 0x08#8] [(0#3, 0x0080#16)] 0x00#8 []) [0#3] [] =
      some ([0x007F#16], 0x02#8, 0x0102#16, []) := by decide

/-- A20: `NEG R0L`. -/
theorem test_step_neg_a20 :
    after (start 0x0100#16 [0x17#8, 0x88#8] [(0#3, 0x0080#16)] 0x00#8 []) [] [] =
      some ([], 0x0B#8, 0x0102#16, []) := by decide

/-- A27: `DAA R0L`. -/
theorem test_step_daa_a27 :
    (after (start 0x0100#16 [0x0F#8, 0x08#8] [(0#3, 0x009A#16)] 0x00#8 []) [0#3] []).map Prod.fst = some [0x0000#16] := by decide

/-- A39: `DAS R0L`. -/
theorem test_step_das_a39 :
    (after (start 0x0100#16 [0x1F#8, 0x08#8] [(0#3, 0x0066#16)] 0x21#8 []) [0#3] []).map Prod.fst = some [0x0000#16] := by decide

/-- A41: `SUB.B R1L, R0L`. -/
theorem test_step_sub_b_a41 :
    after (start 0x0100#16 [0x18#8, 0x98#8] [(0#3, 0x0080#16), (1#3, 0x0001#16)] 0x00#8 []) [0#3] [] =
      some ([0x007F#16], 0x22#8, 0x0102#16, []) := by decide

/-- A46: `SUB.W R1, R0`. -/
theorem test_step_sub_w_a46 :
    after (start 0x0100#16 [0x19#8, 0x10#8] [(0#3, 0x1000#16), (1#3, 0x0100#16)] 0x00#8 []) [0#3] [] =
      some ([0x0F00#16], 0x20#8, 0x0102#16, []) := by decide

/-- A47: `SUBX #H'FF, R0L`. -/
theorem test_step_subx_imm_a47 :
    after (start 0x0100#16 [0xB8#8, 0xFF#8] [] 0x05#8 []) [] [] =
      some ([], 0x25#8, 0x0102#16, []) := by decide

/-- A50: `CMP.B #H'80, R0L`. -/
theorem test_step_cmp_bimm_a50 :
    after (start 0x0100#16 [0xA8#8, 0x80#8] [(0#3, 0x007F#16)] 0x00#8 []) [] [] =
      some ([], 0x0B#8, 0x0102#16, []) := by decide

/-- A52: `CMP.W R1, R0`. -/
theorem test_step_cmp_w_a52 :
    after (start 0x0100#16 [0x1D#8, 0x10#8] [(0#3, 0x7FFF#16), (1#3, 0x8000#16)] 0x00#8 []) [] [] =
      some ([], 0x0B#8, 0x0102#16, []) := by decide

/-- A54: `ADDS #1, R0`. -/
theorem test_step_adds1_a54 :
    after (start 0x0100#16 [0x0B#8, 0x00#8] [(0#3, 0xFFFF#16)] 0xFF#8 []) [0#3] [] =
      some ([0x0000#16], 0xFF#8, 0x0102#16, []) := by decide

/-- A56: `SUBS #2, R0`. -/
theorem test_step_subs2_a56 :
    after (start 0x0100#16 [0x1B#8, 0x80#8] [(0#3, 0x0001#16)] 0x00#8 []) [0#3] [] =
      some ([0xFFFF#16], 0x00#8, 0x0102#16, []) := by decide

/-- A57: `MULXU R0L, R0`. -/
theorem test_step_mulxu_a57 :
    after (start 0x0100#16 [0x50#8, 0x80#8] [(0#3, 0xFFFF#16)] 0xFF#8 []) [0#3] [] =
      some ([0xFE01#16], 0xFF#8, 0x0102#16, []) := by decide

/-- A64: `DIVXU R0L, R0`. -/
theorem test_step_divxu_a64 :
    after (start 0x0100#16 [0x51#8, 0x80#8] [(0#3, 0x0304#16)] 0x00#8 []) [0#3] [] =
      some ([0x00C1#16], 0x00#8, 0x0102#16, []) := by decide

/-- D1: `MOV.B R1L, R2H`. -/
theorem test_step_mov_breg_d1 :
    after (start 0x0100#16 [0x0C#8, 0x92#8] [] 0x8B#8 []) [] [] =
      some ([], 0x85#8, 0x0102#16, []) := by decide

/-- D3: `MOV.W R7, R7`. -/
theorem test_step_mov_wreg_d3 :
    after (start 0x0100#16 [0x0D#8, 0x77#8] [] 0x0A#8 []) [] [] =
      some ([], 0x04#8, 0x0102#16, []) := by decide

/-- D6: `MOV.B @R1, R1L`. -/
theorem test_step_mov_bload_ind_d6 :
    after (start 0x0100#16 [0x68#8, 0x19#8] [(1#3, 0xFB00#16)] 0x00#8 [(0xFB00, 0x99#8)]) [1#3] [] =
      some ([0xFB99#16], 0x08#8, 0x0102#16, []) := by decide

/-- D8: `MOV.B @(H'0002, R2), R0L`. -/
theorem test_step_mov_bload_disp_d8 :
    after (start 0x0100#16 [0x6E#8, 0x28#8, 0x00#8, 0x02#8] [(2#3, 0xFFFF#16)] 0x00#8 [(0x0001, 0x80#8)]) [0#3] [] =
      some ([0x0080#16], 0x08#8, 0x0104#16, []) := by decide

/-- D9: `MOV.B @R1+, R0L`. -/
theorem test_step_mov_bpost_inc_d9 :
    after (start 0x0100#16 [0x6C#8, 0x18#8] [(1#3, 0xFFFF#16)] 0x00#8 [(0xFFFF, 0x01#8)]) [0#3, 1#3] [] =
      some ([0x0001#16, 0x0000#16], 0x00#8, 0x0102#16, []) := by decide

/-- D12: `MOV.B @H'FF00:8, R0L`. -/
theorem test_step_mov_bload_abs8_d12 :
    after (start 0x0100#16 [0x28#8, 0x00#8] [] 0x00#8 []) [] [] =
      some ([], 0x04#8, 0x0102#16, []) := by decide

/-- D13: `MOV.B @H'8000:16, R0H`. -/
theorem test_step_mov_bload_abs16_d13 :
    after (start 0x0100#16 [0x6A#8, 0x00#8, 0x80#8, 0x00#8] [] 0x00#8 [(0x8000, 0xFE#8)]) [0#3] [] =
      some ([0xFE00#16], 0x08#8, 0x0104#16, []) := by decide

/-- D15: `MOV.B R1L, @-R1`. -/
theorem test_step_mov_bpre_dec_d15 :
    after (start 0x0100#16 [0x6C#8, 0x99#8] [] 0x00#8 []) [1#3] [0xFFFF#16] =
      some ([0xFFFF#16], 0x08#8, 0x0102#16, [0xFF#8]) := by decide

/-- D30: `MOV.B R0L, @R1`. -/
theorem test_step_mov_bstore_ind_d30 :
    after (start 0x0100#16 [0x68#8, 0x98#8] [(0#3, 0x00EE#16), (1#3, 0x0101#16)] 0x00#8 []) [] [0x0101#16] =
      some ([], 0x08#8, 0x0102#16, [0xEE#8]) := by decide

/-- D17: `MOV.W @R1, R0`. -/
theorem test_step_mov_wload_ind_d17 :
    after (start 0x0100#16 [0x69#8, 0x10#8] [(1#3, 0xFB01#16)] 0x00#8 [(0xFB00, 0x12#8), (0xFB01, 0x34#8), (0xFB02, 0x56#8)]) [0#3] [] =
      some ([0x1234#16], 0x00#8, 0x0102#16, []) := by decide

/-- D18: `MOV.W @R1+, R0`. -/
theorem test_step_mov_wpost_inc_d18 :
    after (start 0x0100#16 [0x6D#8, 0x10#8] [(1#3, 0xFB01#16)] 0x00#8 [(0xFB00, 0x12#8), (0xFB01, 0x34#8), (0xFB02, 0x56#8)]) [0#3, 1#3] [] =
      some ([0x1234#16, 0xFB03#16], 0x00#8, 0x0102#16, []) := by decide

/-- D19: `MOV.W R1, @-R1`. -/
theorem test_step_mov_wpre_dec_d19 :
    after (start 0x0100#16 [0x6D#8, 0x91#8] [(1#3, 0xFB10#16)] 0x00#8 []) [1#3] [0xFB0E#16, 0xFB0F#16] =
      some ([0xFB0E#16], 0x08#8, 0x0102#16, [0xFB#8, 0x0E#8]) := by decide

/-- D22: `MOV.W R0, @(H'8000, R1)`. -/
theorem test_step_mov_wstore_disp_d22 :
    after (start 0x0100#16 [0x6F#8, 0x90#8, 0x80#8, 0x00#8] [(1#3, 0x8001#16)] 0x0A#8 []) [] [0x0000#16, 0x0001#16] =
      some ([], 0x04#8, 0x0104#16, [0x00#8, 0x00#8]) := by decide

/-- D24: `MOV.W R2, @H'FB20:16`. -/
theorem test_step_mov_wstore_abs16_d24 :
    after (start 0x0100#16 [0x6B#8, 0x82#8, 0xFB#8, 0x20#8] [(2#3, 0x00FF#16)] 0x00#8 []) [] [0xFB20#16, 0xFB21#16] =
      some ([], 0x00#8, 0x0104#16, [0x00#8, 0xFF#8]) := by decide

/-- D29: `PUSH R0`. -/
theorem test_step_push_d29 :
    after (start 0x0100#16 [0x6D#8, 0xF0#8] [(0#3, 0x1234#16), (7#3, 0xFF7F#16)] 0x00#8 []) [7#3] [0xFF7C#16, 0xFF7D#16] =
      some ([0xFF7D#16], 0x00#8, 0x0102#16, [0x12#8, 0x34#8]) := by decide

/-- D27: `POP R1`. -/
theorem test_step_pop_d27 :
    after (start 0x0100#16 [0x6D#8, 0x71#8] [(7#3, 0xFF7E#16)] 0x00#8 []) [7#3] [] =
      some ([0xFF80#16], 0x04#8, 0x0102#16, []) := by decide

/-- L1: `AND #H'00, R0L`. -/
theorem test_step_and_imm_l1 :
    after (start 0x0100#16 [0xE8#8, 0x00#8] [(0#3, 0x00FF#16)] 0xAB#8 []) [0#3] [] =
      some ([0x0000#16], 0xA5#8, 0x0102#16, []) := by decide

/-- L3: `OR #H'80, R0H`. -/
theorem test_step_or_imm_l3 :
    after (start 0x0100#16 [0xC0#8, 0x80#8] [] 0x06#8 []) [0#3] [] =
      some ([0x8000#16], 0x08#8, 0x0102#16, []) := by decide

/-- L5: `XOR R0L, R0L`. -/
theorem test_step_xor_reg_l5 :
    after (start 0x0100#16 [0x15#8, 0x88#8] [(0#3, 0x005A#16)] 0x2B#8 []) [0#3] [] =
      some ([0x0000#16], 0x25#8, 0x0102#16, []) := by decide

/-- L7: `NOT R0L`. -/
theorem test_step_not_reg_l7 :
    after (start 0x0100#16 [0x17#8, 0x08#8] [(0#3, 0x00FF#16)] 0x21#8 []) [0#3] [] =
      some ([0x0000#16], 0x25#8, 0x0102#16, []) := by decide

/-- L11: `SHAL R0L`. -/
theorem test_step_shal_l11 :
    after (start 0x0100#16 [0x10#8, 0x88#8] [(0#3, 0x0040#16)] 0x00#8 []) [0#3] [] =
      some ([0x0080#16], 0x0A#8, 0x0102#16, []) := by decide

/-- L14: `SHLL R0L`. -/
theorem test_step_shll_l14 :
    after (start 0x0100#16 [0x10#8, 0x08#8] [(0#3, 0x0040#16)] 0x02#8 []) [0#3] [] =
      some ([0x0080#16], 0x08#8, 0x0102#16, []) := by decide

/-- L17: `SHAR R0L`. -/
theorem test_step_shar_l17 :
    after (start 0x0100#16 [0x11#8, 0x88#8] [(0#3, 0x0080#16)] 0x03#8 []) [0#3] [] =
      some ([0x00C0#16], 0x08#8, 0x0102#16, []) := by decide

/-- L18: `SHLR R0L`. -/
theorem test_step_shlr_l18 :
    after (start 0x0100#16 [0x11#8, 0x08#8] [(0#3, 0x00FF#16)] 0x08#8 []) [0#3] [] =
      some ([0x007F#16], 0x01#8, 0x0102#16, []) := by decide

/-- L20: `ROTL R0L`. -/
theorem test_step_rotl_l20 :
    after (start 0x0100#16 [0x12#8, 0x88#8] [(0#3, 0x0080#16)] 0x00#8 []) [0#3] [] =
      some ([0x0001#16], 0x01#8, 0x0102#16, []) := by decide

/-- L22: `ROTR R0L`. -/
theorem test_step_rotr_l22 :
    after (start 0x0100#16 [0x13#8, 0x88#8] [(0#3, 0x0001#16)] 0x00#8 []) [0#3] [] =
      some ([0x0080#16], 0x09#8, 0x0102#16, []) := by decide

/-- L24: `ROTXL R0L`. -/
theorem test_step_rotxl_l24 :
    after (start 0x0100#16 [0x12#8, 0x08#8] [] 0x01#8 []) [0#3] [] =
      some ([0x0001#16], 0x00#8, 0x0102#16, []) := by decide

/-- L26: `ROTXR R0L`. -/
theorem test_step_rotxr_l26 :
    after (start 0x0100#16 [0x13#8, 0x08#8] [] 0x01#8 []) [0#3] [] =
      some ([0x0080#16], 0x08#8, 0x0102#16, []) := by decide

/-- M3: `BSET R0L, R0L`. -/
theorem test_step_bset_reg_reg_m3 :
    after (start 0x0100#16 [0x60#8, 0x88#8] [(0#3, 0x0005#16)] 0x00#8 []) [0#3] [] =
      some ([0x0025#16], 0x00#8, 0x0102#16, []) := by decide

/-- M4: `BSET #3, @R1`. -/
theorem test_step_bset_imm_ind_m4 :
    after (start 0x0100#16 [0x7D#8, 0x10#8, 0x70#8, 0x30#8] [(1#3, 0xFB00#16)] 0x00#8 [(0xFB00, 0x08#8)]) [] [0xFB00#16] =
      some ([], 0x00#8, 0x0104#16, [0x08#8]) := by decide

/-- M5: `BSET R2H, @H'FF10:8`. -/
theorem test_step_bset_reg_abs_m5 :
    after (start 0x0100#16 [0x7F#8, 0x10#8, 0x60#8, 0x20#8] [(2#3, 0x0E00#16)] 0x00#8 [(0xFF10, 0x01#8)]) [] [0xFF10#16] =
      some ([], 0x00#8, 0x0104#16, [0x41#8]) := by decide

/-- M7: `BCLR R1L, @R1`. -/
theorem test_step_bclr_reg_ind_m7 :
    after (start 0x0100#16 [0x7D#8, 0x10#8, 0x62#8, 0x90#8] [(1#3, 0xFB04#16)] 0x00#8 [(0xFB04, 0xFF#8)]) [] [0xFB04#16] =
      some ([], 0x00#8, 0x0104#16, [0xEF#8]) := by decide

/-- M8: `BCLR #7, @H'FFFF:8`. -/
theorem test_step_bclr_imm_abs_m8 :
    after (start 0x0100#16 [0x7F#8, 0xFF#8, 0x72#8, 0x70#8] [] 0x00#8 [(0xFFFF, 0x80#8)]) [] [0xFFFF#16] =
      some ([], 0x00#8, 0x0104#16, [0x00#8]) := by decide

/-- M10: `BNOT R0H, @R0`. -/
theorem test_step_bnot_reg_ind_m10 :
    after (start 0x0100#16 [0x7D#8, 0x00#8, 0x61#8, 0x00#8] [(0#3, 0xFB00#16)] 0x00#8 [(0xFB00, 0xF7#8)]) [] [0xFB00#16] =
      some ([], 0x00#8, 0x0104#16, [0xFF#8]) := by decide

/-- M14: `BST #1, @R1`. -/
theorem test_step_bst_imm_ind_m14 :
    after (start 0x0100#16 [0x7D#8, 0x10#8, 0x67#8, 0x10#8] [(1#3, 0xFB00#16)] 0x01#8 []) [] [0xFB00#16] =
      some ([], 0x01#8, 0x0104#16, [0x02#8]) := by decide

/-- M16: `BIST #0, @H'FF30:8`. -/
theorem test_step_bist_imm_abs_m16 :
    after (start 0x0100#16 [0x7F#8, 0x30#8, 0x67#8, 0x80#8] [] 0x01#8 [(0xFF30, 0xFF#8)]) [] [0xFF30#16] =
      some ([], 0x01#8, 0x0104#16, [0xFE#8]) := by decide

/-- M20: `BTST R1L, @R2`. -/
theorem test_step_btst_reg_ind_m20 :
    after (start 0x0100#16 [0x7C#8, 0x20#8, 0x63#8, 0x90#8] [(1#3, 0x0002#16), (2#3, 0xFB00#16)] 0x00#8 [(0xFB00, 0xFB#8)]) [] [] =
      some ([], 0x04#8, 0x0104#16, []) := by decide

/-- M24: `BAND #2, @R1`. -/
theorem test_step_band_imm_ind_m24 :
    after (start 0x0100#16 [0x7C#8, 0x10#8, 0x76#8, 0x20#8] [(1#3, 0xFB00#16)] 0x01#8 [(0xFB00, 0xFB#8)]) [] [] =
      some ([], 0x00#8, 0x0104#16, []) := by decide

/-- M26: `BIAND #2, @H'FF50:8`. -/
theorem test_step_biand_imm_abs_m26 :
    after (start 0x0100#16 [0x7E#8, 0x50#8, 0x76#8, 0xA0#8] [] 0x01#8 [(0xFF50, 0xFB#8)]) [] [] =
      some ([], 0x01#8, 0x0104#16, []) := by decide

/-- M27: `BOR #0, R0L`. -/
theorem test_step_bor_imm_reg_m27 :
    after (start 0x0100#16 [0x74#8, 0x08#8] [(0#3, 0x0001#16)] 0x00#8 []) [] [] =
      some ([], 0x01#8, 0x0102#16, []) := by decide

/-- M30: `BIOR #0, @R1`. -/
theorem test_step_bior_imm_ind_m30 :
    after (start 0x0100#16 [0x7C#8, 0x10#8, 0x74#8, 0x80#8] [(1#3, 0xFB00#16)] 0x00#8 [(0xFB00, 0xFE#8)]) [] [] =
      some ([], 0x01#8, 0x0104#16, []) := by decide

/-- M32: `BXOR #6, @H'FF60:8`. -/
theorem test_step_bxor_imm_abs_m32 :
    after (start 0x0100#16 [0x7E#8, 0x60#8, 0x75#8, 0x60#8] [] 0x00#8 [(0xFF60, 0x40#8)]) [] [] =
      some ([], 0x01#8, 0x0104#16, []) := by decide

/-- M34: `BIXOR #6, R0L`. -/
theorem test_step_bixor_imm_reg_m34 :
    after (start 0x0100#16 [0x75#8, 0xE8#8] [] 0x01#8 []) [] [] =
      some ([], 0x00#8, 0x0102#16, []) := by decide

/-- M35: `BLD #7, R0L`. -/
theorem test_step_bld_imm_reg_m35 :
    after (start 0x0100#16 [0x77#8, 0x78#8] [(0#3, 0x0080#16)] 0x8E#8 []) [] [] =
      some ([], 0x8F#8, 0x0102#16, []) := by decide

/-- M38: `BILD #0, @H'FF70:8`. -/
theorem test_step_bild_imm_abs_m38 :
    after (start 0x0100#16 [0x7E#8, 0x70#8, 0x77#8, 0x80#8] [] 0x00#8 [(0xFF70, 0xFE#8)]) [] [] =
      some ([], 0x01#8, 0x0104#16, []) := by decide

/-- B6: `BRA (disp H'80 at pc H'0010)`. -/
theorem test_step_bra_b6 :
    after (start 0x0010#16 [0x40#8, 0x80#8] [] 0x00#8 []) [] [] =
      some ([], 0x00#8, 0xFF92#16, []) := by decide

/-- B2: `BRN (any disp)`. -/
theorem test_step_brn_b2 :
    after (start 0x0100#16 [0x41#8, 0x7E#8] [] 0xFF#8 []) [] [] =
      some ([], 0xFF#8, 0x0102#16, []) := by decide

/-- B9: `BHI H'0110`. -/
theorem test_step_bhi_b9 :
    after (start 0x0100#16 [0x42#8, 0x0E#8] [] 0x04#8 []) [] [] =
      some ([], 0x04#8, 0x0102#16, []) := by decide

/-- B10: `BLS H'0110`. -/
theorem test_step_bls_b10 :
    after (start 0x0100#16 [0x43#8, 0x0E#8] [] 0x01#8 []) [] [] =
      some ([], 0x01#8, 0x0110#16, []) := by decide

/-- B11: `BGE H'0110`. -/
theorem test_step_bge_b11 :
    after (start 0x0100#16 [0x4C#8, 0x0E#8] [] 0x0A#8 []) [] [] =
      some ([], 0x0A#8, 0x0110#16, []) := by decide

/-- B12: `BLT H'0110`. -/
theorem test_step_blt_b12 :
    after (start 0x0100#16 [0x4D#8, 0x0E#8] [] 0x08#8 []) [] [] =
      some ([], 0x08#8, 0x0110#16, []) := by decide

/-- B13: `BGT H'0110`. -/
theorem test_step_bgt_b13 :
    after (start 0x0100#16 [0x4E#8, 0x0E#8] [] 0x0E#8 []) [] [] =
      some ([], 0x0E#8, 0x0102#16, []) := by decide

/-- B14: `BLE H'0110`. -/
theorem test_step_ble_b14 :
    after (start 0x0100#16 [0x4F#8, 0x0E#8] [] 0x02#8 []) [] [] =
      some ([], 0x02#8, 0x0110#16, []) := by decide

/-- B16: `BSR (disp 0)`. -/
theorem test_step_bsr_b16 :
    after (start 0x0100#16 [0x55#8, 0x00#8] [(7#3, 0x0002#16)] 0x00#8 []) [7#3] [0x0000#16, 0x0001#16] =
      some ([0x0000#16], 0x00#8, 0x0102#16, [0x01#8, 0x02#8]) := by decide

/-- B18: `JSR @R1`. -/
theorem test_step_jsr_ind_b18 :
    after (start 0x0100#16 [0x5D#8, 0x10#8] [(1#3, 0x0401#16), (7#3, 0xFF81#16)] 0x00#8 []) [7#3] [0xFF7E#16, 0xFF7F#16] =
      some ([0xFF7F#16], 0x00#8, 0x0400#16, [0x01#8, 0x02#8]) := by decide

/-- B19: `JSR @H'FFFF:16`. -/
theorem test_step_jsr_abs_b19 :
    after (start 0x0100#16 [0x5E#8, 0x00#8, 0xFF#8, 0xFF#8] [(7#3, 0xFF80#16)] 0x00#8 []) [7#3] [0xFF7E#16, 0xFF7F#16] =
      some ([0xFF7E#16], 0x00#8, 0xFFFE#16, [0x01#8, 0x04#8]) := by decide

/-- B20: `JSR @@H'FF`. -/
theorem test_step_jsr_mem_b20 :
    after (start 0x0100#16 [0x5F#8, 0xFF#8] [(7#3, 0xFF80#16)] 0x00#8 [(0x00FE, 0x12#8), (0x00FF, 0x35#8)]) [7#3] [0xFF7E#16, 0xFF7F#16] =
      some ([0xFF7E#16], 0x00#8, 0x1234#16, [0x01#8, 0x02#8]) := by decide

/-- B22: `JMP @R0`. -/
theorem test_step_jmp_ind_b22 :
    after (start 0x0100#16 [0x59#8, 0x00#8] [(0#3, 0xFFFF#16)] 0x00#8 []) [] [] =
      some ([], 0x00#8, 0xFFFE#16, []) := by decide

/-- B23: `JMP @@H'02`. -/
theorem test_step_jmp_mem_b23 :
    after (start 0x0100#16 [0x5B#8, 0x02#8] [] 0x00#8 [(0x0002, 0x01#8)]) [] [] =
      some ([], 0x00#8, 0x0100#16, []) := by decide

/-- B25: `RTS`. -/
theorem test_step_rts_b25 :
    after (start 0x0100#16 [0x54#8, 0x70#8] [(7#3, 0xFF7F#16)] 0x00#8 [(0xFF7E, 0x02#8)]) [7#3] [] =
      some ([0xFF81#16], 0x00#8, 0x0200#16, []) := by decide

/-- S1: `LDC #H'FF, CCR`. -/
theorem test_step_ldc_imm_s1 :
    after (start 0x0100#16 [0x07#8, 0xFF#8] [] 0x00#8 []) [] [] =
      some ([], 0xFF#8, 0x0102#16, []) := by decide

/-- S2: `LDC R0H, CCR`. -/
theorem test_step_ldc_reg_s2 :
    after (start 0x0100#16 [0x03#8, 0x00#8] [(0#3, 0x5000#16)] 0x80#8 []) [] [] =
      some ([], 0x50#8, 0x0102#16, []) := by decide

/-- S3: `STC CCR, R0L`. -/
theorem test_step_stc_s3 :
    after (start 0x0100#16 [0x02#8, 0x08#8] [] 0xD5#8 []) [0#3] [] =
      some ([0x00D5#16], 0xD5#8, 0x0102#16, []) := by decide

/-- S4: `ANDC #H'AF, CCR`. -/
theorem test_step_andc_s4 :
    after (start 0x0100#16 [0x06#8, 0xAF#8] [] 0xFF#8 []) [] [] =
      some ([], 0xAF#8, 0x0102#16, []) := by decide

/-- S5: `ORC #H'50, CCR`. -/
theorem test_step_orc_s5 :
    after (start 0x0100#16 [0x04#8, 0x50#8] [] 0x00#8 []) [] [] =
      some ([], 0x50#8, 0x0102#16, []) := by decide

/-- S6: `XORC #H'FF, CCR`. -/
theorem test_step_xorc_s6 :
    after (start 0x0100#16 [0x05#8, 0xFF#8] [] 0xA5#8 []) [] [] =
      some ([], 0x5A#8, 0x0102#16, []) := by decide

/-- S8: `SLEEP`. -/
theorem test_step_sleep_s8 :
    after (start 0x0100#16 [0x01#8, 0x80#8] [] 0x80#8 []) [] [] =
      some ([], 0x80#8, 0x0102#16, []) := by decide

/-- S9: `RTE`. -/
theorem test_step_rte_s9 :
    after (start 0x0100#16 [0x56#8, 0x70#8] [(7#3, 0xFF7C#16)] 0x80#8 [(0xFF7C, 0x05#8), (0xFF7D, 0xFF#8), (0xFF7E, 0x02#8), (0xFF7F, 0x01#8)]) [7#3] [] =
      some ([0xFF80#16], 0x05#8, 0x0200#16, []) := by decide

/-- T3: `EEPMOV`. -/
theorem test_step_eepmov_t3 :
    after (start 0x0100#16 [0x7B#8, 0x5C#8, 0x59#8, 0x8F#8] [(4#3, 0x0004#16), (5#3, 0xFB00#16), (6#3, 0xFB01#16)] 0x00#8 [(0xFB00, 0x01#8), (0xFB01, 0x02#8), (0xFB02, 0x03#8), (0xFB03, 0x04#8), (0xFB04, 0x05#8)]) [4#3, 5#3, 6#3] [0xFB01#16, 0xFB02#16] =
      some ([0x0000#16, 0xFB04#16, 0xFB05#16], 0x00#8, 0x0104#16, [0x01#8, 0x01#8]) := by decide


/-- SUBS #1 at zero wraps and keeps every flag (R163). -/
theorem test_step_subs1 : after (start 0x0100#16 [0x1B#8, 0x05#8] [] 0xFF#8 []) [5#3] [] =
    some ([0xFFFF#16], 0xFF#8, 0x0102#16, []) := by decide

/-- `JMP @H'1235:16` loses bit 0 (R255, spec/10_state.md R35). -/
theorem test_step_jmp_abs : after (start 0x0100#16 [0x5A#8, 0x00#8, 0x12#8, 0x35#8] [] 0x01#8 []) [] [] =
    some ([], 0x01#8, 0x1234#16, []) := by decide

/-- `MOV.B R0L, @H'FF90:8` (R134). -/
theorem test_step_mov_b_store_abs8 : after (start 0x0100#16 [0x38#8, 0x90#8] [(0#3, 0x0055#16)] 0x0F#8 []) [] [0xFF90#16] =
    some ([], 0x01#8, 0x0102#16, [0x55#8]) := by decide

/-- `MOV.B R0L, @(H'FFFF, R1)` (R132). -/
theorem test_step_mov_b_store_disp :
    after (start 0x0100#16 [0x6E#8, 0x98#8, 0xFF#8, 0xFF#8] [(0#3, 0x0080#16), (1#3, 0xFB01#16)] 0x00#8 []) [] [0xFB00#16] =
      some ([], 0x08#8, 0x0104#16, [0x80#8]) := by decide

/-- `MOV.B R0L, @H'FB90:16` (R135). -/
theorem test_step_mov_b_store_abs16 :
    after (start 0x0100#16 [0x6A#8, 0x88#8, 0xFB#8, 0x90#8] [(0#3, 0x0055#16)] 0x00#8 []) [] [0xFB90#16] =
      some ([], 0x00#8, 0x0104#16, [0x55#8]) := by decide

/-- `MOV.W @(H'0002, R1), R0` at an odd sum reads the word below it (R136, spec/20_memory.md R55). -/
theorem test_step_mov_w_load_disp :
    after (start 0x0100#16 [0x6F#8, 0x10#8, 0x00#8, 0x02#8] [(1#3, 0xFB01#16)] 0x00#8 [(0xFB02, 0x12#8), (0xFB03, 0x34#8)]) [0#3] [] =
      some ([0x1234#16], 0x00#8, 0x0104#16, []) := by decide

/-- BCC and BCS on C = 1 (spec/44_branch.md R252). -/
theorem test_step_bcc_bcs :
    after (start 0x0100#16 [0x44#8, 0x0E#8] [] 0x01#8 []) [] [] = some ([], 0x01#8, 0x0102#16, []) ∧
    after (start 0x0100#16 [0x45#8, 0x0E#8] [] 0x01#8 []) [] [] = some ([], 0x01#8, 0x0110#16, []) := ⟨by decide, by decide⟩

/-- BNE and BEQ on Z = 1. -/
theorem test_step_bne_beq :
    after (start 0x0100#16 [0x46#8, 0x0E#8] [] 0x04#8 []) [] [] = some ([], 0x04#8, 0x0102#16, []) ∧
    after (start 0x0100#16 [0x47#8, 0x0E#8] [] 0x04#8 []) [] [] = some ([], 0x04#8, 0x0110#16, []) := ⟨by decide, by decide⟩

/-- BVC and BVS on V = 1. -/
theorem test_step_bvc_bvs :
    after (start 0x0100#16 [0x48#8, 0x0E#8] [] 0x02#8 []) [] [] = some ([], 0x02#8, 0x0102#16, []) ∧
    after (start 0x0100#16 [0x49#8, 0x0E#8] [] 0x02#8 []) [] [] = some ([], 0x02#8, 0x0110#16, []) := ⟨by decide, by decide⟩

/-- BPL and BMI on N = 1. -/
theorem test_step_bpl_bmi :
    after (start 0x0100#16 [0x4A#8, 0x0E#8] [] 0x08#8 []) [] [] = some ([], 0x08#8, 0x0102#16, []) ∧
    after (start 0x0100#16 [0x4B#8, 0x0E#8] [] 0x08#8 []) [] [] = some ([], 0x08#8, 0x0110#16, []) := ⟨by decide, by decide⟩

/-- W1: `BSET R1L, R2H`, bit number 3 from H'FB. -/
theorem test_step_w1 :
    after (start 0x0100#16 [0x60#8, 0x92#8] [(1#3, 0x00FB#16), (2#3, 0x6500#16)] 0x00#8 []) [2#3] [] =
      some ([0x6D00#16], 0x00#8, 0x0102#16, []) := by decide

/-- W2: `BLD #5, @H'FF02:8`. -/
theorem test_step_w2 : after (start 0x0100#16 [0x7E#8, 0x02#8, 0x77#8, 0x50#8] [] 0x00#8 [(0xFF02, 0xA6#8)]) [] [] =
    some ([], 0x01#8, 0x0104#16, []) := by decide

/-- The refusal a step answers, where it answers one. -/
def refusal (s : State) : Option Refusal :=
  match step s with
  | .next _ => none
  | .fault _ => none
  | .refused r => some r

/-- D31: a word store into the third and fourth byte after the instruction. -/
theorem test_step_d31 :
    refusal (start 0x0100#16 [0x69#8, 0x90#8] [(0#3, 0xEEEE#16), (1#3, 0x0105#16)] 0x00#8 []) = some .imminentStore := by decide

/-- X20: a BSET code under the read-only prefix. -/
theorem test_step_x20 :
    refusal (start 0x0100#16 [0x7C#8, 0x00#8, 0x70#8, 0x00#8] [] 0x00#8 []) = some .undefinedEncoding := by decide

/-! ### Peripherals, interrupts, reset -/

/-- A chip with each kind of region: ROM to H'7FFF, nothing to H'EFFF, RAM to H'FFDF, peripheral modules above; and two interrupt
sources, the second nonmaskable (the sources of spec/95_test_vectors.md, Part 4). -/
def mapped : Chip :=
  { Chip.flat with
    map := [
      { base := 0x0000#16, last := 0x7FFF#16, kind := .onChipMemory false },
      { base := 0xF000#16, last := 0xFFDF#16, kind := .onChipMemory true },
      { base := 0xFFE0#16, last := 0xFFFF#16, kind := .peripheralModule false }]
    irqSources := [{ vectorAddr := 0x0008#16, isNmi := false }, { vectorAddr := 0x0006#16, isNmi := true }]
    ramKept := true }

/-- `start` on that chip, with a script. -/
def scripted (pc : Addr) (code : List Byte) (regs : List (Reg16 × Word)) (ccr : Byte) (data : List (Nat × Byte)) (env : Env) :
    State := { start pc code regs ccr data with chip := mapped, env := env }

/-- A script of peripheral answers. -/
def answers (bs : List Byte) : Env := { ticks := [], periphIn := bs, seen := [] }

/-- A script whose next tick presents some requests. -/
def requests (ids : List Nat) : Env := { ticks := [{ res := .high, pending := ids }], periphIn := [], seen := [] }

/-- What the environment was told in one step. -/
def told (s : State) : Option (List EnvEvent) :=
  match step s with
  | .next t => some t.env.seen
  | .fault _ => none
  | .refused _ => none

/-- W3: `BCLR #0, @PCR4` on a register that reads H'FF. -/
theorem test_step_w3 : told (scripted 0x0100#16 [0x7F#8, 0xE0#8, 0x72#8, 0x00#8] [] 0x00#8 [] (answers [0xFF#8])) =
    some [.write 0xFFE0#16 0xFE#8, .read 0xFFE0#16 0xFF#8] := by decide

/-- W4: `BSET #0, @PDR4` on a port that reads H'40. -/
theorem test_step_w4 : told (scripted 0x0100#16 [0x7F#8, 0xE1#8, 0x70#8, 0x00#8] [] 0x00#8 [] (answers [0x40#8])) =
    some [.write 0xFFE1#16 0x41#8, .read 0xFFE1#16 0x40#8] := by decide

/-- The state of E2, with one request: PC H'0234, CCR H'2A, SP H'FF80, vector word H'0300. -/
def interrupted : State := scripted 0x0234#16 [] [(7#3, 0xFF80#16)] 0x2A#8 [(8, 0x03#8)] (requests [0])

/-- E2 and W9: the interrupt entry frame. -/
theorem test_interrupt_entry : after interrupted [7#3] [0xFF7C#16, 0xFF7D#16, 0xFF7E#16, 0xFF7F#16] =
    some ([0xFF7C#16], 0xAA#8, 0x0300#16, [0x2A#8, 0x2A#8, 0x02#8, 0x34#8]) := by decide

/-- E3: the frame of an odd SP lies at the even addresses below. -/
theorem test_interrupt_entry_odd_sp :
    after (scripted 0x0234#16 [] [(7#3, 0xFF81#16)] 0x05#8 [(8, 0x03#8)] (requests [0])) [7#3]
      [0xFF7C#16, 0xFF7D#16, 0xFF7E#16, 0xFF7F#16] =
    some ([0xFF7D#16], 0x85#8, 0x0300#16, [0x05#8, 0x05#8, 0x02#8, 0x34#8]) := by decide

/-- E4: with `irq_inhibit` set the request waits and the NOP executes. -/
theorem test_interrupt_deferred : after { interrupted with irqInhibit := true } [7#3] [] =
    some ([0xFF80#16], 0x2A#8, 0x0236#16, []) := by decide

/-- E5: asleep with I = 1, the maskable request waits and the NMI is taken. -/
theorem test_sleep_wakes_on_nmi :
    after { scripted 0x0102#16 [] [(7#3, 0xFF80#16)] 0x80#8 [(6, 0x04#8)] (requests [0, 1]) with cpuState := .powerDown }
      [7#3] [0xFF7C#16, 0xFF7E#16, 0xFF7F#16] =
    some ([0xFF7C#16], 0x80#8, 0x0400#16, [0x80#8, 0x01#8, 0x02#8]) := by decide

/-- Some of what one step leaves: PC, I, `irq_inhibit`, operation state. -/
def control (s : State) : Option (Addr × Bool × Bool × CpuState) :=
  match step s with
  | .next t => some (t.pc, t.flag .i, t.irqInhibit, t.cpuState)
  | .fault _ => none
  | .refused _ => none

/-- RES released: `reset` with the vector word H'1235 (the values of E1). -/
def released : State := { scripted 0x4444#16 [] [] 0x80#8 [(0, 0x12#8), (1, 0x35#8)] (requests []) with cpuState := .reset }

/-- E1, second half: the PC from the vector word with bit 0 cleared. -/
theorem test_reset_sequence : (control released).map (fun r => (r.1, r.2.2)) = some (0x1234#16, true, .programExecution) := by
  decide

/-- E1, first half: RES low in power-down. -/
theorem test_reset_line :
    control { released with
      cpuState := .powerDown, env := { ticks := [{ res := .low, pending := [1] }], periphIn := [], seen := [] } } =
    some (0x4444#16, true, false, .reset) := by decide

/-- A script in which RES goes low after `k` data accesses of what the step begins. -/
def cutAfter (k : Nat) (ids : List Nat) (bs : List Byte) : Env :=
  { ticks := [{ res := .lowAfter k, pending := ids }], periphIn := bs, seen := [] }

/-- W4's BSET, at the absolute address of PDR4, cut after `k` accesses. -/
def cutBset (k : Nat) : State := scripted 0x7F00#16 [0x7F#8, 0xE1#8, 0x70#8, 0x00#8] [] 0x00#8 [] (cutAfter k [] [0x40#8])

/-- Cut between its read and its write, BSET has read the port and written nothing (spec/60_exceptions.md R303). -/
theorem test_bset_cut :
    told (cutBset 0) = some [] ∧ told (cutBset 1) = some [.read 0xFFE1#16 0x40#8] ∧
    told (cutBset 2) = some [.write 0xFFE1#16 0x41#8, .read 0xFFE1#16 0x40#8] := ⟨by decide, by decide, by decide⟩

theorem test_cut_enters_reset : (control (cutBset 1)).map (fun r => r.2.2.2) = some .reset := by decide

/-- EEPMOV of two bytes from H'7FFE to H'F000, cut after `k` accesses. -/
def cutEepmov (k : Nat) : State :=
  scripted 0x0100#16 [0x7B#8, 0x5C#8, 0x59#8, 0x8F#8] [(4#3, 0x0002#16), (5#3, 0x7FFE#16), (6#3, 0xF000#16)] 0x00#8
    [(0x7FFE, 0xAA#8), (0x7FFF, 0xBB#8)] (cutAfter k [] [])

/-- A reset can end EEPMOV after any byte (spec/46_block_transfer.md R285): two preliminary reads, then a read and a write each. -/
theorem test_eepmov_cut :
    (after (cutEepmov 3) [] [0xF000#16, 0xF001#16]).map (fun r => r.2.2.2) = some [0x00#8, 0x00#8] ∧
    (after (cutEepmov 5) [] [0xF000#16, 0xF001#16]).map (fun r => r.2.2.2) = some [0xAA#8, 0x00#8] ∧
    (after (cutEepmov 6) [] [0xF000#16, 0xF001#16]).map (fun r => r.2.2.2) = some [0xAA#8, 0xBB#8] :=
  ⟨by decide, by decide, by decide⟩

/-- An interrupt entry cut after its first push has stored the PC and not the CCR. -/
theorem test_interrupt_entry_cut :
    (after { interrupted with env := cutAfter 1 [0] [] } [] [0xFF7C#16, 0xFF7D#16, 0xFF7E#16, 0xFF7F#16]).map (fun r => r.2.2.2) =
      some [0x00#8, 0x00#8, 0x02#8, 0x34#8] := by decide

/-- Two bytes by EEPMOV from the last two peripheral addresses to the first two of RAM. -/
def transferIn : State :=
  scripted 0x0100#16 [0x7B#8, 0x5C#8, 0x59#8, 0x8F#8] [(4#3, 0x0002#16), (5#3, 0xFFFE#16), (6#3, 0xF000#16)] 0x00#8 []
    (answers [0x11#8, 0x22#8, 0x33#8, 0x44#8])

theorem test_eepmov_from_peripheral :
    told transferIn = some [.read 0xFFFF#16 0x33#8, .read 0xFFFE#16 0x22#8, .read 0xFFFE#16 0x11#8] ∧
    after transferIn [5#3, 6#3] [0xF000#16, 0xF001#16] =
      some ([0x0000#16, 0xF002#16], 0x00#8, 0x0104#16, [0x22#8, 0x33#8]) := ⟨by decide, by decide⟩

/-- Two bytes by EEPMOV from the last two of RAM to the first two peripheral addresses. -/
def transferOut : State :=
  scripted 0x0100#16 [0x7B#8, 0x5C#8, 0x59#8, 0x8F#8] [(4#3, 0x0002#16), (5#3, 0xFFDE#16), (6#3, 0xFFE0#16)] 0x00#8
    [(0xFFDE, 0xAA#8), (0xFFDF, 0xBB#8)] (answers [0x11#8])

theorem test_eepmov_to_peripheral :
    told transferOut = some [.write 0xFFE1#16 0xBB#8, .write 0xFFE0#16 0xAA#8, .read 0xFFE0#16 0x11#8] := by decide

/-- The instruction placed by `withFetchWord` is the one the next step runs, also right after reset. -/
theorem test_with_fetch_word : control (State.reset.withFetchWord 16 0x0180) = some (0x0002#16, true, false, .powerDown) := by
  decide

/-- The manual's spelling of the instruction of W2. -/
theorem test_asm_text : asmText (.bldImmAbs 5#3 0x02#8) = "BLD #5, @H'FF02:8" := by decide

/-! ### Hypotheses that can be met -/

theorem flat_kind (s : State) (h : s.chip = Chip.flat) (a : Addr) : s.kindAt a = .onChipMemory true := by
  have e1 : (0x0000#16 ≤ a) := BitVec.le_def.mpr (Nat.zero_le _)
  have e2 : (a ≤ 0xFFFF#16) := by
    rw [BitVec.le_def]
    have := a.isLt
    simp; omega
  simp only [State.kindAt, Chip.kindAt, h, Chip.flat, List.find?, e1, e2, decide_true, Bool.and_self]

theorem flat_memory (s : State) (h : s.chip = Chip.flat) (a : Addr) : IsMemory s a := ⟨true, flat_kind s h a⟩

theorem flat_readable (s : State) (h : s.chip = Chip.flat) (a : Addr) : WordReadable s a := fun b _ => flat_memory s h b

/-- A step that answers a next state. -/
def completes (o : StepOutcome) : Bool :=
  match o with
  | .next _ => true
  | .fault _ => false
  | .refused _ => false

theorem next_of_completes {o : StepOutcome} (h : completes o = true) : ∃ t, o = .next t := by
  cases o with
  | next t => exact ⟨t, rfl⟩
  | fault f => cases h
  | refused r => cases h

theorem ok_of_isOk {r : Res State} (h : r.toBool = true) : ∃ u, r = .ok u := by
  cases r with
  | ok u => exact ⟨u, rfl⟩
  | error e => cases h

/-- R0 = H'0000, R1 = H'FFFF, R2 = H'FB00, R3 = H'8001, R4 = H'0002, R5 = H'FFFF, R6 = H'FB80, SP = H'0001, at the PC H'0100. -/
def edge : State := start 0x0100#16 [] [(1#3, 0xFFFF#16), (2#3, 0xFB00#16), (3#3, 0x8001#16), (4#3, 0x0002#16), (5#3, 0xFFFF#16),
  (6#3, 0xFB80#16), (7#3, 0x0001#16)] 0x01#8 []

theorem edge_flat : edge.chip = Chip.flat := rfl

theorem edge_memory (a : Addr) : IsMemory edge a := flat_memory edge rfl a

theorem edge_storable (npc a : Addr) (h : NotImminent npc a) : ByteStorable edge npc a := ⟨flat_kind edge rfl a, h⟩

theorem edge_word_storable (npc a : Addr) (h : NotImminent npc (evenAddr a)) (h' : NotImminent npc (evenAddr a + 1#16)) :
    WordStorable edge npc a := by
  intro b hb
  simp only [wordBytes, List.mem_cons, List.not_mem_nil, or_false] at hb
  rcases hb with rfl | rfl
  · exact ⟨flat_kind edge rfl _, h⟩
  · exact ⟨flat_kind edge rfl _, h'⟩

theorem witness_decode_of_encode : Instr.wf (.movWPostInc 6#3 7#3) = true ∧ Instr.wf (.movWPreDec 7#3 6#3) = true := by decide

theorem witness_encode_of_decode : decode [0x6D#8, 0x77#8, 0xFF#8, 0xFF#8] = .ok (.pop 7#3, [0xFF#8, 0xFF#8]) := by decide

/-- At the top of the address space, where the second word of the instruction is at H'0000. -/
theorem witness_step_runs_decoded_instruction :
    Executes (start 0xFFFE#16 [0x5E#8, 0x00#8, 0x04#8, 0x00#8] [] 0x00#8 []) ∧
    decode (start 0xFFFE#16 [0x5E#8, 0x00#8, 0x04#8, 0x00#8] [] 0x00#8 []).codeBytes = .ok (.jsrAbs 0x0400#16, []) ∧
    ∀ k : Nat, k < (Instr.length (.jsrAbs 0x0400#16)).toNat → IsMemory (start 0xFFFE#16 [0x5E#8, 0x00#8, 0x04#8, 0x00#8] [] 0x00#8 [])
      (evenAddr (start 0xFFFE#16 [0x5E#8, 0x00#8, 0x04#8, 0x00#8] [] 0x00#8 []).pc + BitVec.ofNat 16 k) :=
  ⟨⟨rfl, rfl, .inr (fun _ h => nomatch h)⟩, by decide, fun _ _ => flat_memory _ rfl _⟩

theorem witness_undefined_encoding_refused :
    Executes (start 0x0100#16 [0x52#8] [] 0x00#8 []) ∧
    decode (start 0x0100#16 [0x52#8] [] 0x00#8 []).codeBytes = .error .unassignedFirstByte ∧
    ∀ k : Nat, k < 4 → IsMemory (start 0x0100#16 [0x52#8] [] 0x00#8 [])
      (evenAddr (start 0x0100#16 [0x52#8] [] 0x00#8 []).pc + BitVec.ofNat 16 k) :=
  ⟨⟨rfl, rfl, .inr (fun _ h => nomatch h)⟩, by decide, fun _ _ => flat_memory _ rfl _⟩

theorem witness_byte_load_from_memory :
    IsMemory edge (edge.r16 1#3) ∧ IsMemory edge (edge.r16 1#3 + 0x0001#16) ∧ IsMemory edge (0xFF#8 ++ 0xFF#8) ∧
    IsMemory edge 0x0000#16 :=
  ⟨edge_memory _, edge_memory _, edge_memory _, edge_memory _⟩

/-- A state on the chip `mapped` with a register on each border of its regions, and one peripheral answer. -/
def border : State := scripted 0x7F00#16 [] [(0#3, 0x0000#16), (1#3, 0x8000#16), (2#3, 0x7FFF#16), (3#3, 0xEFFF#16), (4#3, 0x7F05#16),
  (5#3, 0xFFE0#16), (6#3, 0xFFDF#16), (7#3, 0xF002#16)] 0x00#8 [] (answers [0x40#8])

theorem witness_byte_load_from_peripheral :
    border.env.periphIn = [0x40#8] ∧ IsPeripheral border (border.r16 5#3) ∧ IsPeripheral border (0xFF#8 ++ 0xFF#8) :=
  ⟨rfl, ⟨false, by decide⟩, ⟨false, by decide⟩⟩

/-- `MOV.B @R5+, R1L` and `MOV.B @R5+, R5L`; and EEPMOV of two bytes from and to peripheral addresses. -/
theorem witness_byte_load_from_peripheral_by_post_increment :
    (low3 9#4 ≠ 5#3 ∧ low3 13#4 = 5#3) ∧
    (2 = (transferIn.r8 12#4).toNat ∧ [0x22#8, 0x33#8].length = 2 ∧ transferIn.env.periphIn = 0x11#8 :: ([0x22#8, 0x33#8] ++ [0x44#8]) ∧
      IsPeripheral transferIn (transferIn.r16 5#3) ∧ IsMemory transferIn (transferIn.r16 6#3) ∧
      ∀ k : Nat, k < 2 → IsPeripheral transferIn (transferIn.r16 5#3 + BitVec.ofNat 16 k) ∧
        ByteStorable transferIn (transferIn.pc + 4#16) (transferIn.r16 6#3 + BitVec.ofNat 16 k)) ∧
    (2 = (transferOut.r8 12#4).toNat ∧ transferOut.env.periphIn = [0x11#8] ∧
      IsMemory transferOut (transferOut.r16 5#3) ∧ IsPeripheral transferOut (transferOut.r16 6#3) ∧
      ∀ k : Nat, k < 2 → IsMemory transferOut (transferOut.r16 5#3 + BitVec.ofNat 16 k) ∧
        IsPeripheral transferOut (transferOut.r16 6#3 + BitVec.ofNat 16 k) ∧
        NotImminent (transferOut.pc + 4#16) (transferOut.r16 6#3 + BitVec.ofNat 16 k)) := by
  simp only [← isPeripheral_iff, ← isOnChip_iff, ← isRam_iff, ByteStorable, ← imminent_iff]
  decide

theorem witness_byte_load_from_peripheral_extended :
    IsPeripheral border (border.r16 0#3 + 0xFFE0#16) ∧ IsPeripheral border 0xFFFF#16 := ⟨⟨false, by decide⟩, ⟨false, by decide⟩⟩

/-- Through R5 (the first peripheral byte), R0 + H'FFE0, both absolute forms at H'FFFF, and R0 - 1. -/
theorem witness_byte_store_to_peripheral :
    (IsPeripheral border (border.r16 5#3) ∧ NotImminent (border.pc + 2#16) (border.r16 5#3)) ∧
    (IsPeripheral border (border.r16 0#3 + 0xFFE0#16) ∧ NotImminent (border.pc + 4#16) (border.r16 0#3 + 0xFFE0#16)) ∧
    (IsPeripheral border (0xFF#8 ++ 0xFF#8) ∧ NotImminent (border.pc + 2#16) (0xFF#8 ++ 0xFF#8)) ∧
    (IsPeripheral border 0xFFFF#16 ∧ NotImminent (border.pc + 4#16) 0xFFFF#16) ∧
    IsPeripheral border (border.r16 0#3 - 1#16) ∧ NotImminent (border.pc + 2#16) (border.r16 0#3 - 1#16) :=
  ⟨⟨⟨false, by decide⟩, by decide, by decide, by decide, by decide⟩, ⟨⟨false, by decide⟩, by decide, by decide, by decide, by decide⟩,
    ⟨⟨false, by decide⟩, by decide, by decide, by decide, by decide⟩, ⟨⟨false, by decide⟩, by decide, by decide, by decide, by decide⟩,
    ⟨false, by decide⟩, by decide, by decide, by decide, by decide⟩

theorem witness_word_load_from_memory :
    WordReadable edge (edge.r16 1#3) ∧ WordReadable edge (edge.r16 1#3 + 0x0001#16) ∧ WordReadable edge 0xFFFF#16 :=
  ⟨flat_readable _ rfl _, flat_readable _ rfl _, flat_readable _ rfl _⟩

theorem witness_post_increment_load :
    (low3 9#4 ≠ 0#3 ∧ IsMemory edge (edge.r16 0#3)) ∧ (0#3 ≠ 1#3 ∧ WordReadable edge (edge.r16 1#3)) ∧
    ((6#3 : Reg16) ≠ 7#3 ∧ WordReadable edge (edge.r16 7#3)) :=
  ⟨⟨by decide, edge_memory _⟩, ⟨by decide, flat_readable _ rfl _⟩, ⟨by decide, flat_readable _ rfl _⟩⟩

theorem witness_post_increment_into_pointer :
    (low3 9#4 = 1#3 ∧ IsMemory edge (edge.r16 1#3)) ∧ WordReadable edge (edge.r16 1#3) ∧ WordReadable edge (edge.r16 7#3) :=
  ⟨⟨by decide, edge_memory _⟩, flat_readable _ rfl _, flat_readable _ rfl _⟩

/-- The first address after the imminent bytes, and the last before them. -/
theorem witness_byte_store_to_ram :
    ByteStorable edge (edge.pc + 2#16) (edge.r16 1#3) ∧ ByteStorable edge (edge.pc + 4#16) (edge.r16 0#3 + 0x0108#16) ∧
    ByteStorable edge (edge.pc + 2#16) (0xFF#8 ++ 0x00#8) ∧ ByteStorable edge (edge.pc + 4#16) 0x0103#16 ∧
    ByteStorable edge (edge.pc + 2#16) (edge.r16 0#3 - 1#16) ∧ low3 8#4 = 0#3 ∧ low3 9#4 ≠ 0#3 :=
  ⟨edge_storable _ _ ⟨by decide, by decide, by decide, by decide⟩, edge_storable _ _ ⟨by decide, by decide, by decide, by decide⟩,
    edge_storable _ _ ⟨by decide, by decide, by decide, by decide⟩, edge_storable _ _ ⟨by decide, by decide, by decide, by decide⟩,
    edge_storable _ _ ⟨by decide, by decide, by decide, by decide⟩, by decide, by decide⟩

theorem witness_word_store_to_ram :
    WordStorable edge (edge.pc + 2#16) (edge.r16 1#3) ∧ WordStorable edge (edge.pc + 4#16) (edge.r16 0#3 + 0x0108#16) ∧
    WordStorable edge (edge.pc + 4#16) 0x0103#16 ∧ WordStorable edge (edge.pc + 2#16) (edge.r16 0#3 - 2#16) ∧
    WordStorable edge (edge.pc + 2#16) (edge.r16 7#3 - 2#16) := by
  refine ⟨edge_word_storable _ _ ?_ ?_, edge_word_storable _ _ ?_ ?_, edge_word_storable _ _ ?_ ?_, edge_word_storable _ _ ?_ ?_,
    edge_word_storable _ _ ?_ ?_⟩
  all_goals exact ⟨by decide, by decide, by decide, by decide⟩

theorem forall_wordBytes (a : Addr) (P : Addr → Prop) : (∀ b ∈ wordBytes a, P b) ↔ P (evenAddr a) ∧ P (evenAddr a + 1#16) := by
  simp only [wordBytes, List.mem_cons, List.not_mem_nil, or_false, forall_eq_or_imp, forall_eq]

theorem exists_wordBytes (a : Addr) (P : Addr → Prop) : (∃ b ∈ wordBytes a, P b) ↔ P (evenAddr a) ∨ P (evenAddr a + 1#16) := by
  simp only [wordBytes, List.mem_cons, List.not_mem_nil, or_false, exists_eq_or_imp, exists_eq_left]

/-- Each clause at a border of the memory map: R1 and R3 at the ends of the unmapped hole, R2 at the end of ROM, R4 at the last
imminent byte, R5 at the first peripheral byte. -/
theorem witness_access_refusals :
    border.kindAt (border.r16 1#3) = .unmapped ∧
    (NotImminent (border.pc + 2#16) (border.r16 2#3) ∧ border.kindAt (border.r16 2#3) = .onChipMemory false) ∧
    (NotImminent (border.pc + 2#16) (border.r16 3#3) ∧ border.kindAt (border.r16 3#3) = .unmapped) ∧
    ¬ NotImminent (border.pc + 2#16) (border.r16 4#3) ∧
    (∃ b ∈ wordBytes (border.r16 5#3), IsPeripheral border b) ∧
    ((∀ b ∈ wordBytes (border.r16 1#3), ¬ IsPeripheral border b) ∧ ∃ b ∈ wordBytes (border.r16 1#3), border.kindAt b = .unmapped) ∧
    ((∀ b ∈ wordBytes (border.r16 5#3), NotImminent (border.pc + 2#16) b) ∧
      ∃ b ∈ wordBytes (border.r16 5#3), IsPeripheral border b) ∧
    ((∀ b ∈ wordBytes (border.r16 3#3), NotImminent (border.pc + 2#16) b ∧ ¬ IsPeripheral border b) ∧
      ∃ b ∈ wordBytes (border.r16 3#3), border.kindAt b = .unmapped) ∧
    ((∀ b ∈ wordBytes (border.r16 2#3), NotImminent (border.pc + 2#16) b) ∧ WordReadable border (border.r16 2#3) ∧
      ¬ WordWritable border (border.r16 2#3)) ∧
    (∃ b ∈ wordBytes (border.r16 4#3), ¬ NotImminent (border.pc + 2#16) b) := by
  have p : ∀ a, IsPeripheral border a ↔ (border.kindAt a).isPeripheral = true := fun a => (isPeripheral_iff border a).symm
  have m : ∀ a, IsMemory border a ↔ (border.kindAt a).isOnChip = true := fun a => (isOnChip_iff border a).symm
  have n : ∀ k a, NotImminent k a ↔ imminent k a = false := fun k a => (imminent_iff k a).symm
  simp only [WordReadable, WordWritable, IsRam, forall_wordBytes, exists_wordBytes, p, m, n]
  refine ⟨?_, ?_, ?_, ?_, ?_, ?_, ?_, ?_, ?_, ?_⟩ <;> decide

theorem witness_divide_exactly :
    (start 0x0100#16 [] [(0#3, 0x01FE#16), (1#3, 0x0002#16)] 0x00#8 []).r8 9#4 ≠ 0#8 ∧
    (hiByte ((start 0x0100#16 [] [(0#3, 0x01FE#16), (1#3, 0x0002#16)] 0x00#8 []).r16 0#3)).toNat <
      ((start 0x0100#16 [] [(0#3, 0x01FE#16), (1#3, 0x0002#16)] 0x00#8 []).r8 9#4).toNat := by decide

theorem witness_divide_not_assured :
    edge.r8 8#4 = 0#8 ∧ (edge.r8 9#4 ≠ 0#8 ∧ (edge.r8 9#4).toNat ≤ (hiByte (edge.r16 1#3)).toNat) := by decide

/-- One byte from every row of the two tables (vectors A23 to A39). -/
theorem witness_decimal_adjust_on_table : ∀ p ∈ ([
    ((false, 0, 9, false, 0, 9, 0x00#8, false), 0x00#8, 0x99#16), ((false, 0, 8, false, 10, 15, 0x06#8, false), 0x00#8, 0x8F#16),
    ((false, 0, 9, true, 0, 3, 0x06#8, false), 0x20#8, 0x93#16), ((false, 10, 15, false, 0, 9, 0x60#8, true), 0x00#8, 0xA9#16),
    ((false, 9, 15, false, 10, 15, 0x66#8, true), 0x00#8, 0x9A#16), ((false, 10, 15, true, 0, 3, 0x66#8, true), 0x20#8, 0xA3#16),
    ((true, 0, 2, false, 0, 9, 0x60#8, true), 0x01#8, 0x29#16), ((true, 0, 2, false, 10, 15, 0x66#8, true), 0x01#8, 0x2A#16),
    ((true, 0, 3, true, 0, 3, 0x66#8, true), 0x21#8, 0x33#16), ((false, 0, 8, true, 6, 15, 0xFA#8, false), 0x20#8, 0x86#16),
    ((true, 7, 15, false, 0, 9, 0xA0#8, true), 0x01#8, 0x70#16), ((true, 6, 15, true, 6, 15, 0x9A#8, true), 0x21#8, 0x66#16)] :
      List ((Bool × Nat × Nat × Bool × Nat × Nat × Byte × Bool) × Byte × Word)),
    AdjustCase (start 0x0100#16 [] [(0#3, p.2.2)] p.2.1 []) 8#4 p.1 := by
  unfold AdjustCase
  decide

theorem witness_packed_decimal : IsBcd 0x99#8 ∧ IsBcd 0x00#8 := by
  unfold IsBcd
  decide

/-- For the memory forms of the bit instructions: @R1 and @aa:8 at H'FFFF. -/
theorem witness_bit_memory :
    ByteStorable edge (edge.pc + 4#16) (edge.r16 1#3) ∧ ByteStorable edge (edge.pc + 4#16) (0xFF#8 ++ 0xFF#8) ∧
    IsMemory edge (edge.r16 1#3) ∧ IsMemory edge (0xFF#8 ++ 0xFF#8) :=
  ⟨edge_storable _ _ ⟨by decide, by decide, by decide, by decide⟩, edge_storable _ _ ⟨by decide, by decide, by decide, by decide⟩,
    edge_memory _, edge_memory _⟩

theorem witness_bit_modify_peripheral :
    border.env.periphIn = [0x40#8] ∧ (IsPeripheral border (border.r16 5#3) ∧ NotImminent (border.pc + 4#16) (border.r16 5#3)) ∧
    IsPeripheral border (0xFF#8 ++ 0xFF#8) ∧ NotImminent (border.pc + 4#16) (0xFF#8 ++ 0xFF#8) :=
  ⟨rfl, ⟨⟨false, by decide⟩, by decide, by decide, by decide, by decide⟩, ⟨false, by decide⟩, by decide, by decide, by decide,
    by decide⟩

theorem witness_compare_then_branch :
    (∃ t, exec (.cmpBReg 1#4 9#4) edge = .next t) ∧ ∃ t, exec (.cmpW 1#3 3#3) edge = .next t := ⟨⟨_, rfl⟩, ⟨_, rfl⟩⟩

theorem witness_jumps_and_return : WordReadable edge (0x00#8 ++ 0xFF#8) ∧ WordReadable edge (edge.r16 7#3) :=
  ⟨flat_readable _ rfl _, flat_readable _ rfl _⟩

/-- With SP at H'0001, so that the push wraps to H'FFFF. -/
theorem witness_stack_round_trips :
    ((2#3 : Reg16) ≠ 7#3 ∧ (3#3 : Reg16) ≠ 7#3 ∧ ∃ t, exec (.push 2#3) edge = .next t) ∧
    edge.pc.getLsbD 0 = false ∧ ∃ t, exec (.bsr 0x80#8) edge = .next t :=
  ⟨⟨by decide, by decide, next_of_completes (by decide)⟩, by decide, next_of_completes (by decide)⟩

theorem witness_calls :
    WordStorable edge (edge.pc + 2#16) (edge.r16 7#3 - 2#16) ∧ WordStorable edge (edge.pc + 4#16) (edge.r16 7#3 - 2#16) ∧
    WordReadable edge (0x00#8 ++ 0xFF#8) := by
  refine ⟨edge_word_storable _ _ ?_ ?_, edge_word_storable _ _ ?_ ?_, flat_readable _ rfl _⟩
  all_goals exact ⟨by decide, by decide, by decide, by decide⟩

theorem witness_ccr_writers :
    (∃ imm, (Instr.ldcImm 0xFF#8) = .ldcImm imm ∧ 0xFF#8 = imm) ∧ (∃ rs, (Instr.ldcReg 9#4) = .ldcReg rs ∧ 0xFF#8 = edge.r8 rs) ∧
    (∃ imm, (Instr.andc 0x00#8) = .andc imm ∧ 0x00#8 = edge.ccr &&& imm) ∧
    (∃ imm, (Instr.orc 0x80#8) = .orc imm ∧ 0x81#8 = edge.ccr ||| imm) ∧
    (∃ imm, (Instr.xorc 0xFF#8) = .xorc imm ∧ 0xFE#8 = edge.ccr ^^^ imm) :=
  ⟨⟨_, rfl, rfl⟩, ⟨_, rfl, by decide⟩, ⟨_, rfl, by decide⟩, ⟨_, rfl, by decide⟩, ⟨_, rfl, by decide⟩⟩

/-- Asleep with I = 1 and the maskable source requesting; and the NMI admissible all the same. -/
theorem witness_sleep_enters_power_down :
    ({ scripted 0x0102#16 [] [] 0x80#8 [] (requests [0]) with cpuState := .powerDown }.cpuState = .powerDown ∧
      (scripted 0x0102#16 [] [] 0x80#8 [] (requests [0])).tick.resLow = false ∧
      ∀ k ∈ (scripted 0x0102#16 [] [] 0x80#8 [] (requests [0])).tick.pending,
        (scripted 0x0102#16 [] [] 0x80#8 [] (requests [0])).admissible k = none) ∧
    (scripted 0x0102#16 [] [] 0x80#8 [] (requests [0])).flag .i = true ∧
    (scripted 0x0102#16 [] [] 0x80#8 [] (requests [0])).admissible 1 = some { vectorAddr := 0x0006#16, isNmi := true } := by
  decide

theorem witness_return_from_exception : WordReadable edge (edge.r16 7#3) ∧ WordReadable edge (edge.r16 7#3 + 2#16) :=
  ⟨flat_readable _ rfl _, flat_readable _ rfl _⟩

/-- Two bytes from H'FFFF and H'0000 (vector T2). -/
theorem witness_block_transfer :
    2 = (edge.r8 12#4).toNat ∧ IsMemory edge (edge.r16 5#3) ∧ IsMemory edge (edge.r16 6#3) ∧
    ∀ k : Nat, k < 2 → IsMemory edge (edge.r16 5#3 + BitVec.ofNat 16 k) ∧
      ByteStorable edge (edge.pc + 4#16) (edge.r16 6#3 + BitVec.ofNat 16 k) := by
  refine ⟨by decide, edge_memory _, edge_memory _, fun k hk => ⟨edge_memory _, edge_storable _ _ ?_⟩⟩
  have : k = 0 ∨ k = 1 := by omega
  rcases this with rfl | rfl <;> exact ⟨by decide, by decide, by decide, by decide⟩

theorem interrupted_chosen : IsChosen interrupted 0 { vectorAddr := 0x0008#16, isNmi := false } :=
  ⟨[], [], rfl, by decide, fun _ h => nomatch h⟩

theorem witness_interrupt_entry :
    interrupted.tick.resLow = false ∧ (interrupted.cpuState = .programExecution ∧ interrupted.irqInhibit = false) ∧
    IsChosen interrupted 0 { vectorAddr := 0x0008#16, isNmi := false } ∧
    WordWritable interrupted (interrupted.r16 7#3 - 2#16) ∧ WordWritable interrupted (interrupted.r16 7#3 - 4#16) ∧
    WordReadable interrupted 0x0008#16 := by
  refine ⟨rfl, ⟨rfl, rfl⟩, interrupted_chosen, ?_, ?_, ?_⟩
  · exact (canWriteWord_iff _ _).mp (by decide)
  · exact (canWriteWord_iff _ _).mp (by decide)
  · exact (canReadWord_iff _ _).mp (by decide)

/-- The other operation state an interrupt is taken in, by the NMI behind a masked request. -/
theorem witness_interrupt_entry_asleep :
    { scripted 0x0102#16 [] [] 0x80#8 [] (requests [0, 1]) with cpuState := .powerDown }.cpuState = .powerDown ∧
    IsChosen { scripted 0x0102#16 [] [] 0x80#8 [] (requests [0, 1]) with cpuState := .powerDown } 1
      { vectorAddr := 0x0006#16, isNmi := true } :=
  ⟨rfl, [0], [], rfl, by decide, by decide⟩

theorem witness_interrupt_then_return :
    interrupted.pc.getLsbD 0 = false ∧ IsChosen interrupted 0 { vectorAddr := 0x0008#16, isNmi := false } ∧
    ∃ t, step interrupted = .next t := ⟨by decide, interrupted_chosen, next_of_completes (by decide)⟩

theorem witness_interrupt_deferral :
    (∃ t, exec (.ldcImm 0x00#8) edge = .next t) ∧
    (State.reset.irqInhibit = true ∧ State.reset.tick.resLow = false ∧ State.reset.cpuState = .programExecution ∧
      decode State.reset.codeBytes = .ok (.nop, [0x00#8, 0x00#8]) ∧
      ∀ k : Nat, k < 4 → IsMemory State.reset (evenAddr State.reset.pc + BitVec.ofNat 16 k)) :=
  ⟨⟨_, rfl⟩, rfl, rfl, rfl, by decide, fun _ _ => flat_memory _ rfl _⟩

theorem cutBset_abandons (k : Nat) : AbandonsAfter (cutBset k) (.bsetImmAbs 0#3 0xE1#8) k := by
  refine ⟨rfl, rfl, .inr (fun _ h => nomatch h), ⟨[], ?_⟩, fun j hj => (isOnChip_iff _ _).mp ?_⟩
  · exact (by decide : decode (cutBset 0).codeBytes = .ok (.bsetImmAbs 0#3 0xE1#8, []))
  · exact (by decide : ∀ j : Nat, j < (Instr.length (.bsetImmAbs 0#3 0xE1#8)).toNat →
      ((cutBset 0).kindAt (evenAddr (cutBset 0).pc + BitVec.ofNat 16 j)).isOnChip = true) j hj

theorem cutEepmov_abandons (k : Nat) : AbandonsAfter (cutEepmov k) .eepmov k := by
  refine ⟨rfl, rfl, .inr (fun _ h => nomatch h), ⟨[], ?_⟩, fun j hj => (isOnChip_iff _ _).mp ?_⟩
  · exact (by decide : decode (cutEepmov 0).codeBytes = .ok (.eepmov, []))
  · exact (by decide : ∀ j : Nat, j < (Instr.length .eepmov).toNat →
      ((cutEepmov 0).kindAt (evenAddr (cutEepmov 0).pc + BitVec.ofNat 16 j)).isOnChip = true) j hj

/-- RES low at a boundary; in a step that ends; in BSET before, between and after its accesses. -/
theorem witness_reset_line :
    { released with env := { ticks := [{ res := .low, pending := [1] }], periphIn := [], seen := [] } }.tick.res = .low ∧
    ((cutBset 1).tick.res = .lowAfter 1 ∧ ∃ t, step (cutBset 1) = .next t) ∧
    ∀ k ∈ [0, 1, 2], AbandonsAfter (cutBset k) (.bsetImmAbs 0#3 0xE1#8) k ∧
      ∃ u, (dataAccesses (.bsetImmAbs 0#3 0xE1#8) (cutBset k)).run k (cutBset k).consumeTick = .ok u := by
  refine ⟨rfl, ⟨rfl, next_of_completes (by decide)⟩, fun k hk => ⟨cutBset_abandons k, ?_⟩⟩
  simp only [List.mem_cons, List.not_mem_nil, or_false] at hk
  rcases hk with rfl | rfl | rfl
  · exact ⟨_, rfl⟩
  · exact ok_of_isOk (by decide)
  · exact ok_of_isOk (by decide)

/-- EEPMOV cut after the preliminary reads (no byte, the next read or not), in the middle, and after its last byte. -/
theorem witness_reset_line_during_eepmov : ∀ p ∈ ([(2, 0), (3, 0), (4, 1), (5, 1), (6, 2)] : List (Nat × Nat)),
    AbandonsAfter (cutEepmov p.1) .eepmov p.1 ∧ p.1 / 2 = p.2 + 1 ∧ p.2 ≤ ((cutEepmov p.1).r8 12#4).toNat ∧
    IsMemory (cutEepmov p.1) ((cutEepmov p.1).r16 5#3) ∧ IsMemory (cutEepmov p.1) ((cutEepmov p.1).r16 6#3) ∧
    (∀ m : Nat, m ≤ p.2 → m < ((cutEepmov p.1).r8 12#4).toNat →
      IsMemory (cutEepmov p.1) ((cutEepmov p.1).r16 5#3 + BitVec.ofNat 16 m)) ∧
    (∀ m : Nat, m < p.2 → ByteStorable (cutEepmov p.1) ((cutEepmov p.1).pc + 4#16)
      ((cutEepmov p.1).r16 6#3 + BitVec.ofNat 16 m)) := by
  intro p hp
  refine ⟨cutEepmov_abandons _, ?_⟩
  revert p
  simp only [← isOnChip_iff, ← isRam_iff, ByteStorable, ← imminent_iff]
  decide

theorem witness_reset_sequence :
    released.tick.resLow = false ∧ released.cpuState = .reset ∧ WordReadable released released.chip.resetVectorAddr :=
  ⟨rfl, rfl, (canReadWord_iff _ _).mp (by decide)⟩

theorem witness_exec_next :
    (∃ t, exec (.daa 8#4) edge = .next t) ∧ storesMemory (.daa 8#4) = false ∧ transfersControl (.daa 8#4) = false ∧
    (∃ t, exec (.push 2#3) edge = .next t) ∧ ∃ t, exec .sleep edge = .next t := by
  refine ⟨next_of_completes ?_, rfl, rfl, next_of_completes (by decide), ⟨_, rfl⟩⟩
  decide

theorem witness_invariant_kept : Inv State.reset ∧ ∃ t, step State.reset = .next t :=
  ⟨⟨rfl, rfl, by decide⟩, next_of_completes (by decide)⟩

theorem witness_memory_reads_what_was_written :
    Memory.wf [(0, 0x01#8), (65535, 0xFF#8)] = true ∧ Memory.wf (Memory.write [(65535, 0xFF#8)] 0 0x01#8) = true ∧
    ∀ a : Nat, Memory.read [(0, 0x01#8), (65535, 0xFF#8)] a = Memory.read (Memory.write [(65535, 0xFF#8)] 0 0x01#8) a :=
  ⟨by decide, by decide, fun _ => rfl⟩

end Sys2Proof.Tests
end

section
/-! SUPPORT. What a step that executes comes to (spec/00_scope.md R19, spec/60_exceptions.md R310), and how many bytes the instruction
it fetches has (spec/30_encoding.md R81). -/

namespace Sys2Proof.Machine

/-! ### The words of a decoded instruction -/

/-- Whatever `d` decodes to is encoded in `n` words. -/
def EncodedIn (n : Nat) (d : Decoded) : Prop := ∀ i, d = .ok i → (encode i).length = n

theorem EncodedIn.ok {n : Nat} {i : Instr} (h : (encode i).length = n) : EncodedIn n (.ok i) := by
  rintro j ⟨⟩
  exact h

theorem EncodedIn.error {n : Nat} (e : DecodeError) : EncodedIn n (.error e) := nofun

theorem EncodedIn.ite {n : Nat} {c : Prop} [Decidable c] {d e : Decoded} (hd : EncodedIn n d) (he : EncodedIn n e) :
    EncodedIn n (if c then d else e) := by
  split
  · exact hd
  · exact he

theorem EncodedIn.asFixed {n : Nat} {i : Instr} (ok : Bool) (h : (encode i).length = n) : EncodedIn n (asFixed ok i) :=
  .ite (.ok h) (.error _)

theorem EncodedIn.asSub08 {n : Nat} {f g : Reg8 → Instr} (b : Byte) (hf : ∀ r, (encode (f r)).length = n)
    (hg : ∀ r, (encode (g r)).length = n) : EncodedIn n (asSub08 b f g) :=
  .ite (.ok (hg _)) (.asFixed _ (hf _))

theorem EncodedIn.asSubW {n : Nat} {f : Reg16 → Instr} (b : Byte) (sub : Nibble) (h : ∀ r, (encode (f r)).length = n) :
    EncodedIn n (asSubW b sub f) :=
  .asFixed _ (h _)

theorem EncodedIn.asSubW08 {n : Nat} {f g : Reg16 → Instr} (b : Byte) (hf : ∀ r, (encode (f r)).length = n)
    (hg : ∀ r, (encode (g r)).length = n) : EncodedIn n (asSubW08 b f g) :=
  .ite (.asSubW _ _ hg) (.asSubW _ _ hf)

theorem EncodedIn.asMR8 {n : Nat} {load : Reg16 → Reg8 → Instr} {store : Reg8 → Reg16 → Instr} (b : Byte)
    (hl : ∀ r c, (encode (load r c)).length = n) (hs : ∀ c r, (encode (store c r)).length = n) :
    EncodedIn n (asMR8 b load store) := by
  refine .ok ?_
  split
  · exact hs _ _
  · exact hl _ _

theorem EncodedIn.asMR16 {n : Nat} {load store : Reg16 → Reg16 → Instr} (b : Byte)
    (hl : ∀ r q, (encode (load r q)).length = n) (hs : ∀ r q, (encode (store r q)).length = n) :
    EncodedIn n (asMR16 b load store) := by
  refine .asFixed _ ?_
  split
  · exact hs _ _
  · exact hl _ _

theorem EncodedIn.asBitM {n : Nat} {f : Imm3 → Instr} (b : Byte) (h : ∀ k, (encode (f k)).length = n) :
    EncodedIn n (asBitM b f) :=
  .asFixed _ (h _)

theorem EncodedIn.asBitMInv {n : Nat} {f g : Imm3 → Instr} (b : Byte) (hf : ∀ k, (encode (f k)).length = n)
    (hg : ∀ k, (encode (g k)).length = n) : EncodedIn n (asBitMInv b f g) := by
  refine .asFixed _ ?_
  split
  · exact hg _
  · exact hf _

theorem EncodedIn.asBitMReg {n : Nat} {f : Reg8 → Instr} (b : Byte) (h : ∀ r, (encode (f r)).length = n) :
    EncodedIn n (asBitMReg b f) :=
  .asFixed _ (h _)

theorem EncodedIn.withIndByte {n : Nat} {f : Reg16 → Decoded} (b : Byte) (h : ∀ r, EncodedIn n (f r)) :
    EncodedIn n (withIndByte b f) :=
  .ite (h _) (.error _)

/-! ### The 4-byte instructions, by their first byte -/

theorem decodeBitReadInd_two_words (rd : Reg16) (b3 b4 : Byte) : EncodedIn 2 (decodeBitReadInd rd b3 b4) := by
  unfold decodeBitReadInd
  split
  · exact .asBitMReg _ fun _ => rfl
  · exact .asBitM _ fun _ => rfl
  iterate 4 exact .asBitMInv _ (fun _ => rfl) fun _ => rfl
  · exact .error _

theorem decodeBitReadAbs_two_words (abs b3 b4 : Byte) : EncodedIn 2 (decodeBitReadAbs abs b3 b4) := by
  unfold decodeBitReadAbs
  split
  · exact .asBitMReg _ fun _ => rfl
  · exact .asBitM _ fun _ => rfl
  iterate 4 exact .asBitMInv _ (fun _ => rfl) fun _ => rfl
  · exact .error _

theorem decodeBitModifyInd_two_words (rd : Reg16) (b3 b4 : Byte) : EncodedIn 2 (decodeBitModifyInd rd b3 b4) := by
  unfold decodeBitModifyInd
  split
  iterate 3 exact .asBitMReg _ fun _ => rfl
  · exact .asBitMInv _ (fun _ => rfl) fun _ => rfl
  iterate 3 exact .asBitM _ fun _ => rfl
  · exact .error _

theorem decodeBitModifyAbs_two_words (abs b3 b4 : Byte) : EncodedIn 2 (decodeBitModifyAbs abs b3 b4) := by
  unfold decodeBitModifyAbs
  split
  iterate 3 exact .asBitMReg _ fun _ => rfl
  · exact .asBitMInv _ (fun _ => rfl) fun _ => rfl
  iterate 3 exact .asBitM _ fun _ => rfl
  · exact .error _

theorem decodeLong_two_words (b1 b2 b3 b4 : Byte) : EncodedIn 2 (decodeLong b1 b2 b3 b4) := by
  unfold decodeLong
  split
  · exact .asFixed _ rfl
  · exact .asFixed _ rfl
  · exact .asSub08 _ (fun _ => rfl) fun _ => rfl
  · exact .asSubW08 _ (fun _ => rfl) fun _ => rfl
  · exact .asMR8 _ (fun _ _ => rfl) fun _ _ => rfl
  · exact .asMR16 _ (fun _ _ => rfl) fun _ _ => rfl
  · exact .asSubW _ _ fun _ => rfl
  · exact .ite (.ok rfl) (.error _)
  · exact .withIndByte _ fun rd => decodeBitReadInd_two_words rd b3 b4
  · exact .withIndByte _ fun rd => decodeBitModifyInd_two_words rd b3 b4
  · exact decodeBitReadAbs_two_words b2 b3 b4
  · exact decodeBitModifyAbs_two_words b2 b3 b4
  · exact .error _

/-! ### The length of the instruction at the PC -/

/-- The 2-byte and the 4-byte instructions (spec/30_encoding.md R80). -/
theorem encode_length_one_or_two (i : Instr) : (encode i).length = 1 ∨ (encode i).length = 2 := by
  cases i <;> simp [encode]

theorem two_le_length (i : Instr) : 2 ≤ i.length.toNat := by
  rcases encode_length_one_or_two i with e | e <;> simp [Instr.length, e]

/-- The bytes the fetch reads are bytes of the instruction it finds. -/
theorem fetched_le_length {b1 b2 b3 b4 : Byte} {i : Instr} {rest : List Byte}
    (hd : decode [b1, b2, b3, b4] = .ok (i, rest)) : (if isLong b1 then 4 else 2) ≤ i.length.toNat := by
  split
  case isTrue hL =>
    rw [decode_long hL] at hd
    have two : (encode i).length = 2 := decodeLong_two_words b1 b2 b3 b4 i (decoded_map_ok hd)
    simp [Instr.length, two]
  case isFalse => exact two_le_length i

/-- `fetch_of_decode` for the bytes of the instruction itself. -/
theorem fetch_of_decode_of_length {s : State} {i : Instr} {rest : List Byte} (hd : decode s.codeBytes = .ok (i, rest))
    (hm : ∀ k : Nat, k < i.length.toNat → IsMemory s (evenAddr s.pc + BitVec.ofNat 16 k)) : s.fetch = .ok i :=
  fetch_of_decode hd fun k hk => hm k (hk.trans_le (fetched_le_length hd))

/-! ### A step that executes -/

/-- Using up the tick leaves the requests admissible as they were. -/
@[simp] theorem State.consumeTick_admissible (s : State) (id : Nat) : s.consumeTick.admissible id = s.admissible id := rfl

/-- A step that executes is the fetch, in the state whose tick has been used up (R310). -/
theorem phase_of_executes {s : State} (h : Executes s) : phase s = s.consumeTick.fetchPhase := by
  obtain ⟨hres, hprog, hirq⟩ := h
  have hphase : phase s = s.consumeTick.programPhase s.tick.pending := by simp [phase_of_high hres, hprog]
  rw [hphase, State.programPhase]
  rcases hirq with hinhibit | hnone
  · simp [hinhibit]
  · have hchoose : s.consumeTick.choose s.tick.pending = none := choose_none_iff.mpr hnone
    simp [hchoose]

theorem step_of_executes_of_fetch {s : State} {i : Instr} (h : Executes s) (hf : s.consumeTick.fetch = .ok i) :
    step s = exec i s.consumeTick := by
  simp only [step, phase_of_executes h, State.fetchPhase, hf]

/-- Settles O4: the tick leaves the PC and the memory as they were, so the fetch after it finds what the bytes at the PC decode to. -/
theorem stepRunsDecodedInstruction : Obligations.StepRunsDecodedInstruction := by
  intro s i rest hexec hd hm
  exact ⟨step_of_executes_of_fetch hexec (fetch_of_decode_of_length (s := s.consumeTick) hd hm), rfl⟩

end Sys2Proof.Machine
end

section
/-! SUPPORT. Where an instruction can leave the PC, the operation state and the form of memory, shape by shape
(spec/10_state.md R34, R35, R46, spec/20_memory.md R56). -/

namespace Sys2Proof.Machine

/-! ### The ways an instruction ends -/

/-- `t` has the operation state of `s`, and a canonical memory if `s` has one. -/
structure KeepsMode (s t : State) : Prop where
  cpuState : t.cpuState = s.cpuState
  memWf : Memory.wf s.mem = true → Memory.wf t.mem = true

/-- `t` has the PC of `s` as well: so do register writes, flag writes and data accesses leave the state. -/
structure KeepsControl (s t : State) : Prop extends KeepsMode s t where
  pc : t.pc = s.pc

/-- The end of an instruction of `len` bytes that goes on to the next one. -/
structure Advances (len : Addr) (s t : State) : Prop extends KeepsMode s t where
  pc : t.pc = s.pc + len

/-- The end of a control transfer: the PC is its target with bit 0 cleared (R35). -/
structure Jumps (s t : State) : Prop extends KeepsMode s t where
  pc : ∃ target : Addr, t.pc = evenAddr target

/-- How instruction `i` may end: at the next instruction, or, if it transfers control, at an even target; in power-down state
if it is SLEEP, else in the operation state it began in (R34, R46). -/
structure Ends (i : Instr) (s t : State) : Prop where
  pc : t.pc = s.pc + i.length ∨ (transfersControl i = true ∧ ∃ target : Addr, t.pc = evenAddr target)
  cpuState : t.cpuState = if i = .sleep then .powerDown else s.cpuState
  memWf : Memory.wf s.mem = true → Memory.wf t.mem = true

theorem KeepsMode.trans {s t u : State} (h : KeepsMode s t) (k : KeepsMode t u) : KeepsMode s u :=
  ⟨k.cpuState.trans h.cpuState, k.memWf ∘ h.memWf⟩

theorem KeepsControl.refl (s : State) : KeepsControl s s := ⟨⟨rfl, id⟩, rfl⟩

theorem KeepsControl.trans {s t u : State} (h : KeepsControl s t) (k : KeepsControl t u) : KeepsControl s u :=
  ⟨h.toKeepsMode.trans k.toKeepsMode, k.pc.trans h.pc⟩

theorem BusKeeps.keepsControl {s t : State} (h : BusKeeps s t) : KeepsControl s t := by
  obtain ⟨-, hpc, -, -, hcpu, -, hwf, -⟩ := h
  exact ⟨⟨hcpu, hwf⟩, hpc⟩

theorem keepsControl_afterRead (s : State) (a : Addr) : KeepsControl s (s.afterRead a) := (busKeeps_afterRead s a).keepsControl

theorem keepsControl_afterWrite (s : State) (a : Addr) (v : Byte) : KeepsControl s (s.afterWrite a v) :=
  (busKeeps_afterWrite s a v).keepsControl

theorem keepsControl_putWord (s : State) (a : Addr) (v : Word) : KeepsControl s (s.putWord a v) :=
  (busKeeps_putWord s a v).keepsControl

theorem keepsControl_setR16 (s : State) (n : Reg16) (v : Word) : KeepsControl s (s.setR16 n v) := ⟨⟨rfl, id⟩, rfl⟩

theorem keepsControl_setR8 (s : State) (c : Reg8) (v : Byte) : KeepsControl s (s.setR8 c v) := ⟨⟨rfl, id⟩, rfl⟩

theorem keepsControl_setCcr (s : State) (v : Byte) : KeepsControl s (s.setCcr v) := ⟨⟨rfl, id⟩, rfl⟩

theorem keepsControl_drawn (s : State) : KeepsControl s s.drawn := ⟨⟨rfl, id⟩, rfl⟩

theorem keepsControl_movFlags {w : Nat} (s : State) (v : BitVec w) : KeepsControl s (s.movFlags v) := keepsControl_setCcr s _

theorem keepsControl_postIncByte (s : State) (rs : Reg16) (rd : Reg8) (v : Byte) : KeepsControl s (s.postIncByte rs rd v) := by
  unfold State.postIncByte
  split
  · exact (keepsControl_setR16 _ _ _).trans (keepsControl_drawn _)
  · exact (keepsControl_setR16 _ _ _).trans (keepsControl_setR8 _ _ _)

theorem keepsControl_postIncWord (s : State) (rs rd : Reg16) (v : Word) : KeepsControl s (s.postIncWord rs rd v) := by
  unfold State.postIncWord
  split
  · exact (keepsControl_setR16 _ _ _).trans (keepsControl_drawn _)
  · exact (keepsControl_setR16 _ _ _).trans (keepsControl_setR16 _ _ _)

theorem KeepsControl.advance {s u : State} (h : KeepsControl s u) (len : Addr) : Advances len s (u.advance len) :=
  ⟨⟨h.cpuState, h.memWf⟩, congrArg (· + len) h.pc⟩

theorem KeepsControl.jump {s u : State} (h : KeepsControl s u) (target : Addr) : Jumps s (u.jump target) :=
  ⟨⟨h.cpuState, h.memWf⟩, ⟨target, rfl⟩⟩

theorem KeepsControl.advances {len : Addr} {s u t : State} (h : KeepsControl s u) (k : Advances len u t) : Advances len s t :=
  ⟨h.toKeepsMode.trans k.toKeepsMode, k.pc.trans (congrArg (· + len) h.pc)⟩

/-- An instruction that makes no access writes registers, flags and the PC of the next instruction. -/
theorem Advances.of_next {len : Addr} {s u t : State} (h : (Host.Outcome.next u : StepOutcome) = .next t)
    (hpc : u.pc = s.pc + len) (hcpu : u.cpuState = s.cpuState) (hmem : u.mem = s.mem) : Advances len s t := by
  cases h
  exact ⟨⟨hcpu, fun hwf => hmem ▸ hwf⟩, hpc⟩

theorem Ends.of_advances {i : Instr} {s t : State} (hi : i ≠ .sleep) (h : Advances i.length s t) : Ends i s t :=
  ⟨.inl h.pc, by rw [if_neg hi, h.cpuState], h.memWf⟩

theorem ne_sleep_of_transfersControl {i : Instr} (hi : transfersControl i = true) : i ≠ .sleep := by
  rintro rfl
  cases hi

theorem Ends.of_jumps {i : Instr} {s t : State} (hi : transfersControl i = true) (h : Jumps s t) : Ends i s t :=
  ⟨.inr ⟨hi, h.pc⟩, by rw [if_neg (ne_sleep_of_transfersControl hi), h.cpuState], h.memWf⟩

/-! ### Arithmetic -/

theorem advances_of_decimalAdjust {s t : State} {rd : Reg8} {table : List AdjustRow} {carry : AdjustRow → Bool} {free : List Flag}
    (h : decimalAdjust s rd table carry free = .next t) : Advances 2#16 s t := by
  unfold decimalAdjust at h
  dsimp only at h
  split at h
  · exact .of_next h rfl rfl rfl
  · exact .of_next h rfl rfl rfl

theorem advances_of_divxu {s t : State} {rs : Reg8} {rd : Reg16} (h : execDivxu rs rd s = .next t) : Advances 2#16 s t := by
  unfold execDivxu at h
  dsimp only at h
  split at h
  · exact .of_next h rfl rfl rfl
  · split at h
    · exact .of_next h rfl rfl rfl
    · exact .of_next h rfl rfl rfl

/-! ### Data transfer -/

theorem advances_of_loadByte {s t : State} {ea len : Addr} {rd : Reg8} (h : loadByte s ea rd len = .next t) :
    Advances len s t := by
  obtain ⟨-, rfl⟩ := loadByte_next_iff.mp h
  exact (((keepsControl_afterRead _ _).trans (keepsControl_setR8 _ _ _)).trans (keepsControl_movFlags _ _)).advance len

theorem advances_of_loadWord {s t : State} {ea len : Addr} {rd : Reg16} (h : loadWord s ea rd len = .next t) :
    Advances len s t := by
  obtain ⟨-, rfl⟩ := loadWord_next_iff.mp h
  exact ((keepsControl_setR16 _ _ _).trans (keepsControl_movFlags _ _)).advance len

theorem advances_of_moveByteTo {s t : State} {ea len : Addr} {v : Byte} (h : moveByteTo s ea v len = .next t) :
    Advances len s t := by
  obtain ⟨-, -, rfl⟩ := moveByteTo_next_iff.mp h
  exact ((keepsControl_afterWrite _ _ _).trans (keepsControl_movFlags _ _)).advance len

theorem advances_of_moveWordTo {s t : State} {ea len : Addr} {v : Word} (h : moveWordTo s ea v len = .next t) :
    Advances len s t := by
  obtain ⟨-, rfl⟩ := moveWordTo_next_iff.mp h
  exact ((keepsControl_putWord _ _ _).trans (keepsControl_movFlags _ _)).advance len

theorem advances_of_movBPostInc {s t : State} {rs : Reg16} {rd : Reg8} (h : execMovBPostInc rs rd s = .next t) :
    Advances 2#16 s t := by
  obtain ⟨-, rfl⟩ := execMovBPostInc_next_iff.mp h
  exact (((keepsControl_afterRead _ _).trans (keepsControl_postIncByte _ _ _ _)).trans (keepsControl_movFlags _ _)).advance 2#16

theorem advances_of_popInto {s t : State} {rs rd : Reg16} (h : popInto s rs rd = .next t) : Advances 2#16 s t := by
  obtain ⟨-, rfl⟩ := popInto_next_iff.mp h
  exact ((keepsControl_postIncWord _ _ _ _).trans (keepsControl_movFlags _ _)).advance 2#16

theorem advances_of_movBPreDec {s t : State} {rs : Reg8} {rd : Reg16} (h : execMovBPreDec rs rd s = .next t) :
    Advances 2#16 s t :=
  (keepsControl_setR16 s rd (s.r16 rd - 1#16)).advances (advances_of_moveByteTo h)

theorem advances_of_pushFrom {s t : State} {rs rd : Reg16} (h : pushFrom s rs rd = .next t) : Advances 2#16 s t :=
  (keepsControl_setR16 s rd (s.r16 rd - 2#16)).advances (advances_of_moveWordTo h)

/-! ### Bit manipulation in memory -/

theorem advances_of_testMem {s t : State} {op : BitTest} {ea : Addr} {n : Imm3} (h : testMem s op ea n = .next t) :
    Advances 4#16 s t := by
  obtain ⟨-, rfl⟩ := testMem_next_iff.mp h
  exact ((keepsControl_afterRead _ _).trans (keepsControl_setCcr _ _)).advance 4#16

theorem advances_of_modifyMem {s t : State} {ea : Addr} {f : Byte → Byte} (h : modifyMem s ea f = .next t) :
    Advances 4#16 s t := by
  obtain ⟨-, -, rfl⟩ := modifyMem_next_iff.mp h
  exact ((keepsControl_afterRead _ _).trans (keepsControl_afterWrite _ _ _)).advance 4#16

/-! ### EEPMOV -/

theorem keepsControl_of_readByte {s t : State} {a : Addr} {b : Byte} (h : s.readByte a = .ok (b, t)) : KeepsControl s t := by
  obtain ⟨-, -, rfl⟩ := readByte_ok_iff.mp h
  exact keepsControl_afterRead _ _

theorem keepsControl_of_eepmovByte {npc : Addr} {s t : State} (h : eepmovByte npc s = .ok t) : KeepsControl s t := by
  obtain ⟨-, -, -, u, rfl, rfl⟩ := eepmovByte_ok_iff.mp h
  exact ((((keepsControl_afterRead _ _).trans (keepsControl_afterWrite _ _ _)).trans (keepsControl_setR16 _ _ _)).trans
    (keepsControl_setR16 _ _ _)).trans (keepsControl_setR8 _ _ _)

theorem keepsControl_of_eepmovBytes {npc : Addr} {n : Nat} {s t : State} (h : eepmovBytes npc n s = .ok t) :
    KeepsControl s t := by
  induction n generalizing s with
  | zero =>
    cases h
    exact .refl _
  | succ m ih =>
    obtain ⟨s1, hbyte, hrest⟩ := res_bind_ok_iff.mp h
    exact (keepsControl_of_eepmovByte hbyte).trans (ih hrest)

theorem advances_of_eepmov {s t : State} (h : execEepmov s = .next t) : Advances 4#16 s t := by
  obtain ⟨⟨_, s1⟩, hsource, h⟩ := res_bind_ok_iff.mp (finish_next_iff.mp h)
  obtain ⟨⟨_, s2⟩, hdest, h⟩ := res_bind_ok_iff.mp h
  obtain ⟨s3, hbytes, h⟩ := res_bind_ok_iff.mp h
  cases h
  exact (((keepsControl_of_readByte hsource).trans (keepsControl_of_readByte hdest)).trans
    (keepsControl_of_eepmovBytes hbytes)).advance 4#16

/-! ### Control transfers -/

theorem jumps_of_callTo {s t : State} {target len : Addr} (h : callTo s target len = .next t) : Jumps s t := by
  obtain ⟨-, rfl⟩ := callTo_next_iff.mp h
  exact ((keepsControl_setR16 _ _ _).trans (keepsControl_putWord _ _ _)).jump target

theorem jumps_of_jmpMem {s t : State} {abs : Byte} (h : execJmpMem abs s = .next t) : Jumps s t := by
  obtain ⟨-, rfl⟩ := execJmpMem_next_iff.mp h
  exact (KeepsControl.refl s).jump _

theorem jumps_of_jsrMem {s t : State} {abs : Byte} (h : execJsrMem abs s = .next t) : Jumps s t :=
  jumps_of_callTo (execJsrMem_next_iff.mp h).2

theorem jumps_of_rts {s t : State} (h : execRts s = .next t) : Jumps s t := by
  obtain ⟨-, rfl⟩ := execRts_next_iff.mp h
  exact (keepsControl_setR16 _ _ _).jump _

theorem jumps_of_rte {s t : State} (h : execRte s = .next t) : Jumps s t := by
  obtain ⟨-, -, rfl⟩ := returnFromException_ok_iff.mp (finish_next_iff.mp h)
  exact (((keepsControl_setR16 _ _ _).trans (keepsControl_setR16 _ _ _)).trans (keepsControl_setCcr _ _)).jump _

theorem jumps_of_jump {s t : State} {target : Addr} (h : (Host.Outcome.next (s.jump target) : StepOutcome) = .next t) :
    Jumps s t := by
  cases h
  exact (KeepsControl.refl s).jump target

/-- A Bcc ends at its target or, its condition false, at the next instruction (spec/44_branch.md R251). -/
theorem ends_of_branchOn {i : Instr} {s t : State} {k : Cond} {disp : Byte} (hi : transfersControl i = true)
    (hlen : i.length = 2#16) (h : branchOn k disp s = .next t) : Ends i s t := by
  unfold branchOn at h
  split at h
  case isTrue => exact .of_jumps hi (jumps_of_jump h)
  case isFalse => exact .of_advances (ne_sleep_of_transfersControl hi) (hlen ▸ .of_next h rfl rfl rfl)

/-- SLEEP too leaves the PC at the next instruction (spec/45_system_control.md R272). -/
theorem ends_of_sleep {s t : State} (h : execSleep s = .next t) : Ends .sleep s t := by
  cases h
  exact ⟨.inl rfl, rfl, id⟩

/-! ### All instructions -/

theorem exec_ends {i : Instr} {s t : State} (h : exec i s = .next t) : Ends i s t := by
  cases i
  case nop | stc | ldcReg | orc | xorc | andc | ldcImm | addBReg | addW | inc | adds1 | adds2 | movBReg | movWReg | addxReg
      | shll | shal | shlr | shar | rotxl | rotl | rotxr | rotr | orReg | xorReg | andReg | notReg | neg | subB | subW | dec
      | subs1 | subs2 | cmpBReg | cmpW | subxReg | mulxu | bsetRegReg | bnotRegReg | bclrRegReg | btstRegReg | bstImmReg
      | bistImmReg | bsetImmReg | bnotImmReg | bclrImmReg | btstImmReg | borImmReg | biorImmReg | bxorImmReg | bixorImmReg
      | bandImmReg | biandImmReg | bldImmReg | bildImmReg | movWImm | addBImm | addxImm | cmpBImm | subxImm | orImm | xorImm
      | andImm | movBImm =>
    exact .of_advances nofun (.of_next h rfl rfl rfl)
  case sleep => exact ends_of_sleep h
  case daa | das => exact .of_advances nofun (advances_of_decimalAdjust h)
  case divxu => exact .of_advances nofun (advances_of_divxu h)
  case movBLoadAbs8 | movBLoadInd | movBLoadAbs16 | movBLoadDisp => exact .of_advances nofun (advances_of_loadByte h)
  case movWLoadInd | movWLoadAbs16 | movWLoadDisp => exact .of_advances nofun (advances_of_loadWord h)
  case movBStoreAbs8 | movBStoreInd | movBStoreAbs16 | movBStoreDisp => exact .of_advances nofun (advances_of_moveByteTo h)
  case movWStoreInd | movWStoreAbs16 | movWStoreDisp => exact .of_advances nofun (advances_of_moveWordTo h)
  case movBPostInc => exact .of_advances nofun (advances_of_movBPostInc h)
  case movBPreDec => exact .of_advances nofun (advances_of_movBPreDec h)
  case movWPostInc | pop => exact .of_advances nofun (advances_of_popInto h)
  case movWPreDec | push => exact .of_advances nofun (advances_of_pushFrom h)
  case eepmov => exact .of_advances nofun (advances_of_eepmov h)
  case btstImmInd | btstImmAbs | borImmInd | borImmAbs | biorImmInd | biorImmAbs | bxorImmInd | bxorImmAbs | bixorImmInd
      | bixorImmAbs | bandImmInd | bandImmAbs | biandImmInd | biandImmAbs | bldImmInd | bldImmAbs | bildImmInd | bildImmAbs
      | btstRegInd | btstRegAbs =>
    exact .of_advances nofun (advances_of_testMem h)
  case bstImmInd | bstImmAbs | bistImmInd | bistImmAbs | bsetImmInd | bsetImmAbs | bnotImmInd | bnotImmAbs | bclrImmInd
      | bclrImmAbs | bsetRegInd | bsetRegAbs | bnotRegInd | bnotRegAbs | bclrRegInd | bclrRegAbs =>
    exact .of_advances nofun (advances_of_modifyMem h)
  case bra => exact ends_of_branchOn (k := .always) rfl rfl h
  case brn disp => exact ends_of_branchOn (k := .never) (disp := disp) rfl rfl h
  case bhi | bls | bcc | bcs | bne | beq | bvc | bvs | bpl | bmi | bge | blt | bgt | ble =>
    exact ends_of_branchOn rfl rfl h
  case jmpInd | jmpAbs => exact .of_jumps rfl (jumps_of_jump h)
  case bsr | jsrInd | jsrAbs => exact .of_jumps rfl (jumps_of_callTo h)
  case jmpMem => exact .of_jumps rfl (jumps_of_jmpMem h)
  case jsrMem => exact .of_jumps rfl (jumps_of_jsrMem h)
  case rts => exact .of_jumps rfl (jumps_of_rts h)
  case rte => exact .of_jumps rfl (jumps_of_rte h)

/-- Settles O55: of the ways an instruction may end, only a control transfer's leads elsewhere than to the next instruction. -/
theorem onlyTransfersAssignThePc : Obligations.OnlyTransfersAssignThePc := by
  intro i s t h
  obtain ⟨hpc, hcpu, -⟩ := exec_ends h
  refine ⟨fun hi => ?_, hcpu⟩
  rcases hpc with hnext | ⟨htransfer, -⟩
  · exact hnext
  · rw [hi] at htransfer
    cases htransfer

end Sys2Proof.Machine
end

section
/-! SUPPORT. The invariant of every step: at reset, and kept by each phase (spec/10_state.md R35, R46, R49, spec/20_memory.md
R56). -/

namespace Sys2Proof.Machine

/-- Settles O52: the empty memory reads H'0000 at the vector. -/
theorem resetStateValues : Obligations.ResetStateValues := ⟨reset_pc_is_vector_word, rfl, rfl, rfl⟩

/-- Settles O57: the empty memory is canonical, and the PC H'0000 is even. -/
theorem invariantAtReset : Obligations.InvariantAtReset := ⟨rfl, rfl, nofun⟩

/-! ### Instructions -/

/-- Instructions are whole words long (spec/30_encoding.md R80), so the next one is at an even address if this one is. -/
theorem add_length_bit0 (pc : Addr) (i : Instr) : (pc + i.length).getLsbD 0 = pc.getLsbD 0 := by
  have length_even : i.length.toNat % 2 = 0 := by
    rcases encode_length_one_or_two i with e | e <;> simp [Instr.length, e]
  simp only [BitVec.getLsbD, Nat.testBit_zero, BitVec.toNat_add, decide_eq_decide]
  omega

theorem exec_inv {i : Instr} {s t : State} (hs : Inv s) (h : exec i s = .next t) : Inv t := by
  obtain ⟨hwf, heven, hcpu⟩ := hs
  have ends := exec_ends h
  refine ⟨ends.memWf hwf, ?_, ?_⟩
  · rcases ends.pc with hnext | ⟨-, target, hjump⟩
    · rw [hnext, add_length_bit0, heven]
    · rw [hjump, evenAddr_bit0]
  · rw [ends.cpuState]
    split
    · nofun
    · exact hcpu

/-! ### Reset and interrupts -/

theorem enterReset_inv {s : State} (hs : Inv s) : Inv s.enterReset := by
  obtain ⟨hwf, heven, -⟩ := hs
  exact ⟨hwf, heven, nofun⟩

theorem uninitialised_wf {s : State} (h : Memory.wf s.mem = true) : Memory.wf s.uninitialised.mem = true := by
  unfold State.uninitialised
  dsimp only
  split
  · exact h
  · exact Memory.wf_scrambled _ _ _ h

theorem resetSequence_inv {s t : State} (hs : Inv s) (h : s.resetSequence = .ok t) : Inv t := by
  obtain ⟨hwf, -, -⟩ := hs
  obtain ⟨-, rfl⟩ := resetSequence_ok_iff.mp h
  exact ⟨uninitialised_wf hwf, evenAddr_bit0 _, nofun⟩

theorem acceptInterrupt_inv {s t : State} {id : Nat} {src : IrqSource} (hs : Inv s) (h : s.acceptInterrupt id src = .ok t) :
    Inv t := by
  obtain ⟨hwf, -, -⟩ := hs
  obtain ⟨u, rfl, -, -, -, rfl⟩ := takeInterrupt_ok_iff.mp h
  exact ⟨putWord_wf _ _ _ (putWord_wf _ _ _ hwf), evenAddr_bit0 _, nofun⟩

theorem cutShort_inv {s t : State} {pending : List Nat} {k : Nat} (hs : Inv s) (h : s.cutShort pending k = .ok t) : Inv t := by
  obtain ⟨hwf, -, -⟩ := hs
  obtain ⟨s1, plan, s2, hbegun, hrun, rfl⟩ := cutShort_ok_iff.mp h
  have hwf1 : Memory.wf s1.mem = true := by
    rcases begun_ok hbegun with rfl | ⟨id, rfl⟩
    · exact hwf
    · exact hwf
  exact ⟨(plan.run_keeps k s1 s2 hrun).keepsControl.memWf hwf1, evenAddr_bit0 _, nofun⟩

/-! ### One step -/

/-- The invariant holds in the state a phase ends the step with, or in the state it hands to the instruction. -/
def Phase.KeepsInv (p : Phase) : Prop :=
  match p with
  | .done o => ∀ t, o = .next t → Inv t
  | .run _ s => Inv s

theorem Phase.keepsInv_finish {r : Res State} (h : ∀ t, r = .ok t → Inv t) : (Phase.done (finish r)).KeepsInv :=
  fun t ht => h t (finish_next_iff.mp ht)

theorem fetchPhase_keepsInv {s : State} (hs : Inv s) : s.fetchPhase.KeepsInv := by
  unfold State.fetchPhase
  split
  · exact hs
  · nofun

theorem programPhase_keepsInv {s : State} (hs : Inv s) (pending : List Nat) : (s.programPhase pending).KeepsInv := by
  unfold State.programPhase
  split
  · exact fetchPhase_keepsInv hs
  · split
    · exact Phase.keepsInv_finish fun _ => acceptInterrupt_inv hs
    · exact fetchPhase_keepsInv hs

theorem powerDownPhase_keepsInv {s : State} (hs : Inv s) (pending : List Nat) : (s.powerDownPhase pending).KeepsInv := by
  unfold State.powerDownPhase
  split
  · exact Phase.keepsInv_finish fun _ => acceptInterrupt_inv hs
  · rintro t ⟨⟩
    exact hs

theorem phase_keepsInv {s : State} (hs : Inv s) : (phase s).KeepsInv := by
  have hs1 : Inv s.consumeTick := hs
  unfold phase
  dsimp only
  cases s.tick.res with
  | low =>
    rintro t ⟨⟩
    exact enterReset_inv hs1
  | lowAfter k => exact Phase.keepsInv_finish fun _ => cutShort_inv hs1
  | high =>
    cases s.cpuState with
    | reset => exact Phase.keepsInv_finish fun _ => resetSequence_inv hs1
    | exceptionHandling => nofun
    | powerDown => exact powerDownPhase_keepsInv hs1 _
    | programExecution => exact programPhase_keepsInv hs1 _

/-- Settles O56: a step is its phase, and the instruction the phase hands on if there is one; both keep the invariant. -/
theorem invariantKept : Obligations.InvariantKept := by
  intro s t hs h
  have hphase := phase_keepsInv hs
  unfold step at h
  cases hp : phase s with
  | done o =>
    rw [hp] at h hphase
    exact hphase t h
  | run i s1 =>
    rw [hp] at h hphase
    exact exec_inv hphase h

end Sys2Proof.Machine
end

section
/-! SUPPORT. What an instruction leaves of the chip, of what the environment will present and was told, and of memory, shape by
shape (spec/10_state.md R48, spec/20_memory.md R58, R66). -/

namespace Sys2Proof.Machine

/-! ### Telling the environment, and leaving memory alone -/

/-- `t` has the chip and the coming ticks of `s`, and whatever the environment was told in `s`, it was told in `t`. -/
structure Tells (s t : State) : Prop where
  chip : t.chip = s.chip
  ticks : t.env.ticks = s.env.ticks
  seen : s.env.seen <:+ t.env.seen

/-- `t` has the memory of `s` as well: so do reads leave the state. -/
structure ReadsOnly (s t : State) : Prop extends Tells s t where
  mem : t.mem = s.mem

/-- What instruction `i` may leave of them: it tells, and only if it stores does memory change (R58). -/
structure Touches (i : Instr) (s t : State) : Prop extends Tells s t where
  mem : storesMemory i = false → t.mem = s.mem

theorem Tells.trans {s t u : State} (h : Tells s t) (k : Tells t u) : Tells s u :=
  ⟨k.chip.trans h.chip, k.ticks.trans h.ticks, h.seen.trans k.seen⟩

theorem ReadsOnly.trans {s t u : State} (h : ReadsOnly s t) (k : ReadsOnly t u) : ReadsOnly s u :=
  ⟨h.toTells.trans k.toTells, k.mem.trans h.mem⟩

theorem Tells.of_eq {s t : State} (hchip : t.chip = s.chip) (henv : t.env = s.env) : Tells s t :=
  ⟨hchip, congrArg Env.ticks henv, henv ▸ List.suffix_rfl⟩

theorem ReadsOnly.of_eq {s t : State} (hchip : t.chip = s.chip) (henv : t.env = s.env) (hmem : t.mem = s.mem) :
    ReadsOnly s t :=
  ⟨.of_eq hchip henv, hmem⟩

theorem Touches.of_reads {i : Instr} {s t : State} (h : ReadsOnly s t) : Touches i s t := ⟨h.toTells, fun _ => h.mem⟩

theorem Touches.of_tells {i : Instr} {s t : State} (hi : storesMemory i = true) (h : Tells s t) : Touches i s t :=
  ⟨h, fun hno => by rw [hi] at hno; cases hno⟩

/-! ### The accesses -/

theorem readsOnly_afterRead (s : State) (a : Addr) : ReadsOnly s (s.afterRead a) := by
  refine ⟨⟨afterRead_chip s a, afterRead_ticks s a, ?_⟩, afterRead_mem s a⟩
  unfold State.afterRead
  split
  · exact List.suffix_cons _ _
  · exact List.suffix_rfl

theorem tells_afterWrite (s : State) (a : Addr) (v : Byte) : Tells s (s.afterWrite a v) := by
  refine ⟨afterWrite_chip s a v, afterWrite_ticks s a v, ?_⟩
  unfold State.afterWrite
  split
  · exact List.suffix_cons _ _
  · exact List.suffix_rfl

theorem tells_putWord (s : State) (a : Addr) (v : Word) : Tells s (s.putWord a v) := .of_eq rfl rfl

/-! ### Instructions that write no memory -/

/-- An instruction that makes no access writes registers, flags and the PC. -/
theorem ReadsOnly.of_next {s u t : State} (h : (Host.Outcome.next u : StepOutcome) = .next t) (hchip : u.chip = s.chip)
    (henv : u.env = s.env) (hmem : u.mem = s.mem) : ReadsOnly s t := by
  cases h
  exact .of_eq hchip henv hmem

theorem readsOnly_of_decimalAdjust {s t : State} {rd : Reg8} {table : List AdjustRow} {carry : AdjustRow → Bool}
    {free : List Flag} (h : decimalAdjust s rd table carry free = .next t) : ReadsOnly s t := by
  unfold decimalAdjust at h
  dsimp only at h
  split at h
  · exact .of_next h rfl rfl rfl
  · exact .of_next h rfl rfl rfl

theorem readsOnly_of_divxu {s t : State} {rs : Reg8} {rd : Reg16} (h : execDivxu rs rd s = .next t) : ReadsOnly s t := by
  unfold execDivxu at h
  dsimp only at h
  split at h
  · exact .of_next h rfl rfl rfl
  · split at h
    · exact .of_next h rfl rfl rfl
    · exact .of_next h rfl rfl rfl

theorem readsOnly_of_branchOn {s t : State} {k : Cond} {disp : Byte} (h : branchOn k disp s = .next t) : ReadsOnly s t := by
  unfold branchOn at h
  split at h
  · exact .of_next h rfl rfl rfl
  · exact .of_next h rfl rfl rfl

theorem readsOnly_of_loadByte {s t : State} {ea len : Addr} {rd : Reg8} (h : loadByte s ea rd len = .next t) :
    ReadsOnly s t := by
  obtain ⟨-, rfl⟩ := loadByte_next_iff.mp h
  exact (readsOnly_afterRead s ea).trans (.of_eq rfl rfl rfl)

theorem readsOnly_of_loadWord {s t : State} {ea len : Addr} {rd : Reg16} (h : loadWord s ea rd len = .next t) :
    ReadsOnly s t := by
  obtain ⟨-, rfl⟩ := loadWord_next_iff.mp h
  exact .of_eq rfl rfl rfl

theorem readsOnly_postIncByte (s : State) (rs : Reg16) (rd : Reg8) (v : Byte) : ReadsOnly s (s.postIncByte rs rd v) := by
  unfold State.postIncByte
  split
  · exact .of_eq rfl rfl rfl
  · exact .of_eq rfl rfl rfl

theorem readsOnly_postIncWord (s : State) (rs rd : Reg16) (v : Word) : ReadsOnly s (s.postIncWord rs rd v) := by
  unfold State.postIncWord
  split
  · exact .of_eq rfl rfl rfl
  · exact .of_eq rfl rfl rfl

theorem readsOnly_of_movBPostInc {s t : State} {rs : Reg16} {rd : Reg8} (h : execMovBPostInc rs rd s = .next t) :
    ReadsOnly s t := by
  obtain ⟨-, rfl⟩ := execMovBPostInc_next_iff.mp h
  exact ((readsOnly_afterRead _ _).trans (readsOnly_postIncByte _ _ _ _)).trans (.of_eq rfl rfl rfl)

theorem readsOnly_of_popInto {s t : State} {rs rd : Reg16} (h : popInto s rs rd = .next t) : ReadsOnly s t := by
  obtain ⟨-, rfl⟩ := popInto_next_iff.mp h
  exact (readsOnly_postIncWord _ _ _ _).trans (.of_eq rfl rfl rfl)

theorem readsOnly_of_testMem {s t : State} {op : BitTest} {ea : Addr} {n : Imm3} (h : testMem s op ea n = .next t) :
    ReadsOnly s t := by
  obtain ⟨-, rfl⟩ := testMem_next_iff.mp h
  exact (readsOnly_afterRead s ea).trans (.of_eq rfl rfl rfl)

theorem readsOnly_of_jmpMem {s t : State} {abs : Byte} (h : execJmpMem abs s = .next t) : ReadsOnly s t := by
  obtain ⟨-, rfl⟩ := execJmpMem_next_iff.mp h
  exact .of_eq rfl rfl rfl

theorem readsOnly_of_rts {s t : State} (h : execRts s = .next t) : ReadsOnly s t := by
  obtain ⟨-, rfl⟩ := execRts_next_iff.mp h
  exact .of_eq rfl rfl rfl

theorem readsOnly_of_rte {s t : State} (h : execRte s = .next t) : ReadsOnly s t := by
  obtain ⟨-, -, rfl⟩ := returnFromException_ok_iff.mp (finish_next_iff.mp h)
  exact .of_eq rfl rfl rfl

/-! ### Instructions that may write memory -/

theorem tells_of_moveByteTo {s t : State} {ea len : Addr} {v : Byte} (h : moveByteTo s ea v len = .next t) : Tells s t := by
  obtain ⟨-, -, rfl⟩ := moveByteTo_next_iff.mp h
  exact (tells_afterWrite s ea v).trans (.of_eq rfl rfl)

theorem tells_of_moveWordTo {s t : State} {ea len : Addr} {v : Word} (h : moveWordTo s ea v len = .next t) : Tells s t := by
  obtain ⟨-, rfl⟩ := moveWordTo_next_iff.mp h
  exact (tells_putWord s ea v).trans (.of_eq rfl rfl)

theorem tells_of_movBPreDec {s t : State} {rs : Reg8} {rd : Reg16} (h : execMovBPreDec rs rd s = .next t) : Tells s t :=
  have decremented : Tells s (s.setR16 rd (s.r16 rd - 1#16)) := .of_eq rfl rfl
  decremented.trans (tells_of_moveByteTo h)

theorem tells_of_pushFrom {s t : State} {rs rd : Reg16} (h : pushFrom s rs rd = .next t) : Tells s t :=
  have decremented : Tells s (s.setR16 rd (s.r16 rd - 2#16)) := .of_eq rfl rfl
  decremented.trans (tells_of_moveWordTo h)

theorem tells_of_modifyMem {s t : State} {ea : Addr} {f : Byte → Byte} (h : modifyMem s ea f = .next t) : Tells s t := by
  obtain ⟨-, -, rfl⟩ := modifyMem_next_iff.mp h
  exact ((readsOnly_afterRead s ea).toTells.trans (tells_afterWrite _ _ _)).trans (.of_eq rfl rfl)

theorem tells_of_callTo {s t : State} {target len : Addr} (h : callTo s target len = .next t) : Tells s t := by
  obtain ⟨-, rfl⟩ := callTo_next_iff.mp h
  exact .of_eq rfl rfl

theorem tells_of_readByte {s t : State} {a : Addr} {b : Byte} (h : s.readByte a = .ok (b, t)) : Tells s t := by
  obtain ⟨-, -, rfl⟩ := readByte_ok_iff.mp h
  exact (readsOnly_afterRead s a).toTells

theorem tells_of_eepmovByte {npc : Addr} {s t : State} (h : eepmovByte npc s = .ok t) : Tells s t := by
  obtain ⟨-, -, -, u, rfl, rfl⟩ := eepmovByte_ok_iff.mp h
  exact ((readsOnly_afterRead _ _).toTells.trans (tells_afterWrite _ _ _)).trans (.of_eq rfl rfl)

theorem tells_of_eepmovBytes {npc : Addr} {n : Nat} {s t : State} (h : eepmovBytes npc n s = .ok t) : Tells s t := by
  induction n generalizing s with
  | zero =>
    cases h
    exact .of_eq rfl rfl
  | succ m ih =>
    obtain ⟨s1, hbyte, hrest⟩ := res_bind_ok_iff.mp h
    exact (tells_of_eepmovByte hbyte).trans (ih hrest)

theorem tells_of_eepmov {s t : State} (h : execEepmov s = .next t) : Tells s t := by
  obtain ⟨⟨_, s1⟩, hsource, h⟩ := res_bind_ok_iff.mp (finish_next_iff.mp h)
  obtain ⟨⟨_, s2⟩, hdest, h⟩ := res_bind_ok_iff.mp h
  obtain ⟨s3, hbytes, h⟩ := res_bind_ok_iff.mp h
  cases h
  exact (((tells_of_readByte hsource).trans (tells_of_readByte hdest)).trans (tells_of_eepmovBytes hbytes)).trans
    (.of_eq rfl rfl)

/-! ### All instructions -/

theorem exec_touches {i : Instr} {s t : State} (h : exec i s = .next t) : Touches i s t := by
  cases i
  case nop | sleep | stc | ldcReg | orc | xorc | andc | ldcImm | addBReg | addW | inc | adds1 | adds2 | movBReg | movWReg
      | addxReg | shll | shal | shlr | shar | rotxl | rotl | rotxr | rotr | orReg | xorReg | andReg | notReg | neg | subB
      | subW | dec | subs1 | subs2 | cmpBReg | cmpW | subxReg | mulxu | jmpInd | jmpAbs | bsetRegReg | bnotRegReg
      | bclrRegReg | btstRegReg | bstImmReg | bistImmReg | bsetImmReg | bnotImmReg | bclrImmReg | btstImmReg | borImmReg
      | biorImmReg | bxorImmReg | bixorImmReg | bandImmReg | biandImmReg | bldImmReg | bildImmReg | movWImm | addBImm
      | addxImm | cmpBImm | subxImm | orImm | xorImm | andImm | movBImm =>
    exact .of_reads (.of_next h rfl rfl rfl)
  case daa | das => exact .of_reads (readsOnly_of_decimalAdjust h)
  case divxu => exact .of_reads (readsOnly_of_divxu h)
  case bra => exact .of_reads (readsOnly_of_branchOn (k := .always) h)
  case brn disp => exact .of_reads (readsOnly_of_branchOn (k := .never) (disp := disp) h)
  case bhi | bls | bcc | bcs | bne | beq | bvc | bvs | bpl | bmi | bge | blt | bgt | ble =>
    exact .of_reads (readsOnly_of_branchOn h)
  case movBLoadAbs8 | movBLoadInd | movBLoadAbs16 | movBLoadDisp => exact .of_reads (readsOnly_of_loadByte h)
  case movWLoadInd | movWLoadAbs16 | movWLoadDisp => exact .of_reads (readsOnly_of_loadWord h)
  case movBPostInc => exact .of_reads (readsOnly_of_movBPostInc h)
  case movWPostInc | pop => exact .of_reads (readsOnly_of_popInto h)
  case btstImmInd | btstImmAbs | borImmInd | borImmAbs | biorImmInd | biorImmAbs | bxorImmInd | bxorImmAbs | bixorImmInd
      | bixorImmAbs | bandImmInd | bandImmAbs | biandImmInd | biandImmAbs | bldImmInd | bldImmAbs | bildImmInd | bildImmAbs
      | btstRegInd | btstRegAbs =>
    exact .of_reads (readsOnly_of_testMem h)
  case jmpMem => exact .of_reads (readsOnly_of_jmpMem h)
  case rts => exact .of_reads (readsOnly_of_rts h)
  case rte => exact .of_reads (readsOnly_of_rte h)
  case movBStoreAbs8 | movBStoreInd | movBStoreAbs16 | movBStoreDisp => exact .of_tells rfl (tells_of_moveByteTo h)
  case movWStoreInd | movWStoreAbs16 | movWStoreDisp => exact .of_tells rfl (tells_of_moveWordTo h)
  case movBPreDec => exact .of_tells rfl (tells_of_movBPreDec h)
  case movWPreDec | push => exact .of_tells rfl (tells_of_pushFrom h)
  case eepmov => exact .of_tells rfl (tells_of_eepmov h)
  case bstImmInd | bstImmAbs | bistImmInd | bistImmAbs | bsetImmInd | bsetImmAbs | bnotImmInd | bnotImmAbs | bclrImmInd
      | bclrImmAbs | bsetRegInd | bsetRegAbs | bnotRegInd | bnotRegAbs | bclrRegInd | bclrRegAbs =>
    exact .of_tells rfl (tells_of_modifyMem h)
  case bsr | jsrInd | jsrAbs => exact .of_tells rfl (tells_of_callTo h)
  case jsrMem => exact .of_tells rfl (tells_of_callTo (execJsrMem_next_iff.mp h).2)

/-- Settles O54: a read and a told write touch no memory, and every other shape writes registers, flags and the PC. -/
theorem onlyStoresWriteMemory : Obligations.OnlyStoresWriteMemory := by
  intro i s t h
  have touches := exec_touches h
  obtain ⟨told, htold⟩ := touches.seen
  exact ⟨touches.mem, touches.chip, touches.ticks, told, htold.symm⟩

end Sys2Proof.Machine
end

section
/-! SUPPORT. Memory as its contents: the two bytes of a word at either value of bit 0 of its address (spec/20_memory.md R53, R55),
and canonical memories that read alike. -/

namespace Sys2Proof.Machine

/-! ### The address of a word -/

/-- A word access disregards bit 0 of its address (R55). -/
theorem evenAddr_or_one (a : Addr) : evenAddr (a ||| 0x0001#16) = evenAddr a := by
  have masked : 0x0001#16 &&& 0xFFFE#16 = 0#16 := rfl
  simp [evenAddr, BitVec.and_or_distrib_right, masked]

theorem and_not_or_self {w : Nat} (a m : BitVec w) : a &&& ~~~m ||| m = a ||| m := by
  ext i hi
  simp only [BitVec.getElem_or, BitVec.getElem_and, BitVec.getElem_not]
  cases m[i] <;> simp

/-- The odd byte of a word is the one after its even byte. -/
theorem or_one_eq_evenAddr_succ (a : Addr) : a ||| 0x0001#16 = evenAddr a + 1#16 := by
  have disjoint : evenAddr a &&& 0x0001#16 = 0#16 := by simp [evenAddr, BitVec.and_assoc]
  calc a ||| 0x0001#16 = evenAddr a ||| 0x0001#16 := (and_not_or_self a 0x0001#16).symm
    _ = evenAddr a + 1#16 := (BitVec.add_eq_or_of_and_eq_zero _ _ disjoint).symm

theorem wordAt_congr {s : State} {a b : Addr} (h : evenAddr a = evenAddr b) : s.wordAt a = s.wordAt b := by
  simp only [State.wordAt, h]

theorem hiByte_eq_ofNat (w : Word) : hiByte w = BitVec.ofNat 8 (w.toNat / 256) := by
  apply BitVec.eq_of_toNat_eq
  rw [hiByte_toNat, BitVec.toNat_ofNat]
  omega

theorem loByte_eq_ofNat (w : Word) : loByte w = BitVec.ofNat 8 w.toNat := by
  apply BitVec.eq_of_toNat_eq
  rw [loByte_toNat, BitVec.toNat_ofNat]

/-! ### Canonical memories -/

theorem Memory.mem_of_read_ne_unlisted {m : Memory} {a : Nat} (h : Memory.read m a ≠ Memory.unlisted) :
    (a, Memory.read m a) ∈ m := by
  induction m with
  | nil => exact absurd rfl h
  | cons cell rest ih =>
    obtain ⟨k, v⟩ := cell
    simp only [Memory.read] at h ⊢
    split
    case isTrue hk =>
      subst hk
      exact List.mem_cons_self
    case isFalse hk =>
      rw [if_neg hk] at h
      exact List.mem_cons_of_mem _ (ih h)

/-- The entries of a canonical memory are what it reads other than an unlisted byte. -/
theorem Memory.mem_iff_read {m : Memory} (h : Memory.wf m = true) (c : Host.Cell) :
    c ∈ m ↔ Memory.read m c.1 = c.2 ∧ c.2 ≠ Memory.unlisted := by
  constructor
  · intro hc
    exact ⟨Memory.read_of_mem m h hc, (((Memory.wf_iff m).mp h).2 c hc).2⟩
  · rintro ⟨hread, hlisted⟩
    have hmem := Memory.mem_of_read_ne_unlisted (hread ▸ hlisted)
    rw [hread] at hmem
    exact hmem

/-- Canonical memories that read alike are equal: they rise through the same entries. -/
theorem Memory.eq_of_read_eq {m k : Memory} (hm : Memory.wf m = true) (hk : Memory.wf k = true)
    (h : ∀ a : Nat, Memory.read m a = Memory.read k a) : m = k := by
  have irrefl : Std.Irrefl (fun c d : Host.Cell => c.1 < d.1) := ⟨fun c => Nat.lt_irrefl c.1⟩
  have asymm : Std.Antisymm (fun c d : Host.Cell => c.1 < d.1) := ⟨fun c d hcd hdc => absurd hcd (Nat.lt_asymm hdc)⟩
  refine List.Pairwise.eq_of_mem_iff ((Memory.wf_iff m).mp hm).1 ((Memory.wf_iff k).mp hk).1 fun c => ?_
  rw [Memory.mem_iff_read hm, Memory.mem_iff_read hk, h]

/-! ### A word stored, at either value of bit 0 -/

theorem mem8_putWord_even (s : State) (a : Addr) (v : Word) : (s.putWord a v).mem8 (evenAddr a) = hiByte v := by
  rw [mem8_putWord, if_pos rfl]

theorem mem8_putWord_odd (s : State) (a : Addr) (v : Word) : (s.putWord a v).mem8 (a ||| 0x0001#16) = loByte v := by
  rw [or_one_eq_evenAddr_succ, mem8_putWord, if_neg (evenAddr_succ_ne a), if_pos rfl]

theorem wordAt_putWord {s : State} {a b : Addr} {v : Word} (h : evenAddr b = evenAddr a) : (s.putWord a v).wordAt b = v :=
  (wordAt_congr h).trans (mem16_putWord s a v)

theorem not_mem_wordBytes {a b : Addr} (heven : b ≠ evenAddr a) (hodd : b ≠ a ||| 0x0001#16) : b ∉ wordBytes a := by
  rw [or_one_eq_evenAddr_succ] at hodd
  simp [wordBytes, heven, hodd]

/-- Settles O58: bytes by the laws of a memory write, words by their two bytes, and data by the entries of the canonical form. -/
theorem memoryReadsWhatWasWritten : Obligations.MemoryReadsWhatWasWritten := by
  refine ⟨fun m a b v => ?_, fun s a v => ⟨?_, ?_, ?_, ?_, fun b heven hodd => ?_⟩, fun m k => Memory.eq_of_read_eq⟩
  · rw [Memory.read_write]
    simp only [eq_comm]
  · exact (mem8_putWord_even s a v).trans (hiByte_eq_ofNat v)
  · exact (mem8_putWord_odd s a v).trans (loByte_eq_ofNat v)
  · exact wordAt_putWord (evenAddr_evenAddr a)
  · exact wordAt_putWord (evenAddr_or_one a)
  · exact mem8_putWord_other s v (not_mem_wordBytes heven hodd)

end Sys2Proof.Machine
end

section
/-! SUPPORT. Accesses that are refused, and by which name (spec/20_memory.md R60, R70). -/

namespace Sys2Proof.Machine

/-! ### The kinds exclude each other -/

theorem IsPeripheral.not_memory {s : State} {a : Addr} (h : IsPeripheral s a) : ¬ IsMemory s a := by
  obtain ⟨_, hperipheral⟩ := h
  rintro ⟨_, hmemory⟩
  cases hperipheral.symm.trans hmemory

theorem not_isMemory_of_unmapped {s : State} {a : Addr} (h : s.kindAt a = .unmapped) : ¬ IsMemory s a := by
  rintro ⟨_, hmemory⟩
  cases h.symm.trans hmemory

theorem not_wordReadable {s : State} {a : Addr} (h : ∃ b ∈ wordBytes a, ¬ IsMemory s b) : ¬ WordReadable s a := by
  obtain ⟨b, hb, hno⟩ := h
  exact fun hread => hno (hread b hb)

theorem WordWritable.readable {s : State} {a : Addr} (h : WordWritable s a) : WordReadable s a :=
  fun b hb => (h b hb).isMemory

/-! ### Bytes -/

theorem readByte_unmapped {s : State} {a : Addr} (h : s.kindAt a = .unmapped) : s.readByte a = .error .unmappedAddress := by
  simp [State.readByte, State.canReadByte, h, RegionKind.byteReadable, RegionKind.isOnChip, RegionKind.isPeripheral]

theorem storeByte_imminent {s : State} {npc a : Addr} (v : Byte) (h : ¬ NotImminent npc a) :
    s.storeByte npc a v = .error .imminentStore := by
  rw [← imminent_iff, Bool.not_eq_false] at h
  simp [State.storeByte, h]

theorem storeByte_refused {s : State} {npc a : Addr} {k : RegionKind} (v : Byte) (hn : NotImminent npc a)
    (hk : s.kindAt a = k) (h : k.byteWritable = false) : s.storeByte npc a v = .error k.writeRefusal := by
  simp [State.storeByte, State.writeByte, State.canWriteByte, (imminent_iff npc a).mpr hn, hk, h]

/-! ### Words -/

theorem wordRefusal_of_peripheral {s : State} {a : Addr} (h : ∃ b ∈ wordBytes a, IsPeripheral s b) :
    s.wordRefusal a = .wordAccessInPeripheral := by
  simp only [wordBytes, List.mem_cons, List.not_mem_nil, or_false, exists_eq_or_imp, exists_eq_left,
    ← isPeripheral_iff] at h
  simp [State.wordRefusal, h]

theorem wordRefusal_of_no_peripheral {s : State} {a : Addr} (h : ∀ b ∈ wordBytes a, ¬ IsPeripheral s b) :
    s.wordRefusal a = if s.canReadWord a then .writeToRom else .unmappedAddress := by
  simp only [wordBytes, List.forall_mem_cons, ← isPeripheral_iff] at h
  simp [State.wordRefusal, State.canReadWord, h]

theorem wordRefusal_of_unmapped {s : State} {a : Addr} (hp : ∀ b ∈ wordBytes a, ¬ IsPeripheral s b)
    (hu : ¬ WordReadable s a) : s.wordRefusal a = .unmappedAddress := by
  rw [wordRefusal_of_no_peripheral hp, if_neg (mt (canReadWord_iff s a).mp hu)]

theorem wordRefusal_of_readable {s : State} {a : Addr} (h : WordReadable s a) : s.wordRefusal a = .writeToRom := by
  rw [wordRefusal_of_no_peripheral fun b hb hp => hp.not_memory (h b hb), if_pos ((canReadWord_iff s a).mpr h)]

theorem readWord_refused {s : State} {a : Addr} (h : ∃ b ∈ wordBytes a, ¬ IsMemory s b) :
    s.readWord a = .error (s.wordRefusal a) :=
  if_neg (mt (canReadWord_iff s a).mp (not_wordReadable h))

theorem storeWord_imminent {s : State} {npc a : Addr} (v : Word) (h : ∃ b ∈ wordBytes a, ¬ NotImminent npc b) :
    s.storeWord npc a v = .error .imminentStore := by
  have himm : imminentWord npc a = true := by
    rw [← Bool.not_eq_false, imminentWord_iff]
    push Not
    exact h
  simp [State.storeWord, himm]

theorem storeWord_refused {s : State} {npc a : Addr} (v : Word) (hn : ∀ b ∈ wordBytes a, NotImminent npc b)
    (h : ¬ WordWritable s a) : s.storeWord npc a v = .error (s.wordRefusal a) := by
  rw [← canWriteWord_iff] at h
  simp [State.storeWord, State.writeWord, (imminentWord_iff npc a).mpr hn, h]

theorem exists_not_memory_of_peripheral {s : State} {a : Addr} (h : ∃ b ∈ wordBytes a, IsPeripheral s b) :
    ∃ b ∈ wordBytes a, ¬ IsMemory s b :=
  h.imp fun _ hb => hb.imp_right IsPeripheral.not_memory

theorem exists_not_memory_of_unmapped {s : State} {a : Addr} (h : ∃ b ∈ wordBytes a, s.kindAt b = .unmapped) :
    ∃ b ∈ wordBytes a, ¬ IsMemory s b :=
  h.imp fun _ hb => hb.imp_right not_isMemory_of_unmapped

/-! ### Moves -/

theorem loadByte_refused {s : State} {ea len : Addr} {rd : Reg8} {e : Refusal} (h : s.readByte ea = .error e) :
    loadByte s ea rd len = .refused e := by
  simp [loadByte, h]

theorem moveByteTo_refused {s : State} {ea len : Addr} {v : Byte} {e : Refusal}
    (h : s.storeByte (s.npc len) ea v = .error e) : moveByteTo s ea v len = .refused e := by
  simp [moveByteTo, h]

theorem loadWord_refused {s : State} {ea len : Addr} {rd : Reg16} (h : ∃ b ∈ wordBytes ea, ¬ IsMemory s b) :
    loadWord s ea rd len = .refused (s.wordRefusal ea) := by
  simp [loadWord, readWord_refused h]

theorem moveWordTo_imminent {s : State} {ea len : Addr} {v : Word} (h : ∃ b ∈ wordBytes ea, ¬ NotImminent (s.npc len) b) :
    moveWordTo s ea v len = .refused .imminentStore := by
  simp [moveWordTo, storeWord_imminent v h]

theorem moveWordTo_refused {s : State} {ea len : Addr} {v : Word} (hn : ∀ b ∈ wordBytes ea, NotImminent (s.npc len) b)
    (h : ¬ WordWritable s ea) : moveWordTo s ea v len = .refused (s.wordRefusal ea) := by
  simp [moveWordTo, storeWord_refused v hn h]

/-- Settles O14: the imminent bytes are checked first, then the map names the refusal. -/
theorem accessRefusals : Obligations.AccessRefusals := by
  intro s
  refine ⟨fun rs rd hu => ?loadUnmapped, fun rs rd hn hrom => ?storeRom, fun rs rd hn hu => ?storeUnmapped,
    fun rs rd himm => ?storeImminent, fun rs rd hp => ?loadWordPeripheral, fun rs rd hp hu => ?loadWordUnmapped,
    fun rs rd hn hp => ?storeWordPeripheral, fun rs rd hn hu => ?storeWordUnmapped,
    fun rs rd hn hread hrom => ?storeWordRom, fun rs rd himm => ?storeWordImminent⟩
  case loadUnmapped => exact loadByte_refused (readByte_unmapped hu)
  case storeRom => exact moveByteTo_refused (storeByte_refused _ hn hrom rfl)
  case storeUnmapped => exact moveByteTo_refused (storeByte_refused _ hn hu rfl)
  case storeImminent => exact moveByteTo_refused (storeByte_imminent _ himm)
  case loadWordPeripheral =>
    rw [← wordRefusal_of_peripheral hp]
    exact loadWord_refused (exists_not_memory_of_peripheral hp)
  case loadWordUnmapped =>
    have hno := exists_not_memory_of_unmapped hu
    rw [← wordRefusal_of_unmapped hp (not_wordReadable hno)]
    exact loadWord_refused hno
  case storeWordPeripheral =>
    have hno := not_wordReadable (exists_not_memory_of_peripheral hp)
    rw [← wordRefusal_of_peripheral hp]
    exact moveWordTo_refused hn (mt WordWritable.readable hno)
  case storeWordUnmapped =>
    have hno := not_wordReadable (exists_not_memory_of_unmapped hu)
    rw [← wordRefusal_of_unmapped (fun b hb => (hn b hb).2) hno]
    exact moveWordTo_refused (fun b hb => (hn b hb).1) (mt WordWritable.readable hno)
  case storeWordRom =>
    rw [← wordRefusal_of_readable hread]
    exact moveWordTo_refused hn hrom
  case storeWordImminent => exact moveWordTo_imminent himm

end Sys2Proof.Machine
end

section
/-! SUPPORT. What is pushed comes back (spec/20_memory.md R73, spec/40_data_transfer.md R143, R144, spec/44_branch.md R253,
R260). -/

namespace Sys2Proof.Machine

theorem WordStorable.readable {s : State} {npc a : Addr} (h : WordStorable s npc a) : WordReadable s a :=
  fun b hb => (h b hb).1.isMemory

@[simp] theorem sp_setSp (s : State) (v : Word) : (s.setSp v).sp = v := r16_setR16_same s 7#3 v

/-! ### PUSH and POP -/

/-- A completed PUSH of a register other than SP leaves SP less 2 and the register's word there. -/
theorem push_next {s t : State} {rn : Reg16} (hrn : rn ≠ 7#3) (h : exec (.push rn) s = .next t) :
    t.sp = s.sp - 2#16 ∧ WordReadable t (s.sp - 2#16) ∧ t.mem16 (s.sp - 2#16) = s.r16 rn := by
  obtain ⟨hstore, rfl⟩ := moveWordTo_next_iff.mp h
  rw [r16_setR16_same] at hstore ⊢
  rw [r16_setR16_other _ _ hrn]
  exact ⟨sp_setSp _ _, hstore.readable, mem16_putWord _ _ _⟩

/-- POP into a register other than SP gives it the word at SP, and moves SP up by 2. -/
theorem pop_next {s : State} {rm : Reg16} (hrm : rm ≠ 7#3) (h : WordReadable s s.sp) :
    ∃ u, exec (.pop rm) s = .next u ∧ u.r16 rm = s.mem16 s.sp ∧ u.sp = s.sp + 2#16 := by
  refine ⟨_, popInto_next_iff.mpr ⟨h, rfl⟩, ?_, ?_⟩
  · simp [State.sp, State.postIncWord, hrm, State.movFlags]
  · simp [State.sp, State.postIncWord, hrm, hrm.symm, State.movFlags, r16_setR16_other]

/-! ### Calls and RTS -/

/-- A completed call leaves SP less 2, the address after it there, and the other registers and the CCR alone. -/
theorem callTo_next {s t : State} {target len : Addr} (h : callTo s target len = .next t) :
    t.sp = s.sp - 2#16 ∧ WordReadable t (s.sp - 2#16) ∧ t.mem16 (s.sp - 2#16) = s.npc len ∧
      t.regs = (s.setSp (s.sp - 2#16)).regs ∧ t.ccr = s.ccr := by
  obtain ⟨hstore, rfl⟩ := callTo_next_iff.mp h
  exact ⟨sp_setSp _ _, hstore.readable, mem16_putWord _ _ _, rfl, rfl⟩

/-- RTS loads the PC from the word at SP, and moves SP up by 2. -/
theorem rts_next {s : State} (h : WordReadable s s.sp) :
    ∃ u, exec .rts s = .next u ∧ u.pc = evenAddr (s.mem16 s.sp) ∧ u.regs = (s.setSp (s.sp + 2#16)).regs ∧ u.ccr = s.ccr :=
  ⟨_, execRts_next_iff.mpr ⟨h, rfl⟩, rfl, rfl, rfl⟩

/-- SP moved away and back leaves the registers as they were. -/
theorem regs_setSp_of_regs_setSp {s t : State} {v : Word} (h : t.regs = (s.setSp v).regs) : (t.setSp s.sp).regs = s.regs := by
  simp [h, State.sp, State.r16]

/-- Settles O40: the pop reads the word the push wrote, at the address it wrote it. -/
theorem stackRoundTrips : Obligations.StackRoundTrips := by
  constructor
  · intro s t rn rm hrn hrm h
    obtain ⟨hsp, hread, hword⟩ := push_next hrn h
    rw [← hsp] at hread hword
    obtain ⟨u, hu, hreg, hback⟩ := pop_next hrm hread
    rw [hsp, BitVec.sub_add_cancel] at hback
    exact ⟨u, hu, hreg.trans hword, hback⟩
  · intro s t disp heven h
    obtain ⟨hsp, hread, hword, hregs, hccr⟩ := callTo_next h
    rw [← hsp] at hread hword
    obtain ⟨u, hu, hpc, hback, hccr'⟩ := rts_next hread
    have hnpc : (s.npc 2#16).getLsbD 0 = false := (add_length_bit0 s.pc .nop).trans heven
    rw [hword, evenAddr_of_even hnpc] at hpc
    rw [hsp, BitVec.sub_add_cancel, regs_setSp_of_regs_setSp hregs] at hback
    exact ⟨u, hu, hpc, hback, hccr'.trans hccr⟩

end Sys2Proof.Machine
end

section
/-! SUPPORT. Byte accesses to a peripheral module: the environment answers reads, is told of both, and memory stays
(spec/20_memory.md R59, R62). -/

namespace Sys2Proof.Machine

/-! ### The accesses -/

theorem byteAt_of_answer {s : State} {a : Addr} {b : Byte} {more : List Byte} (hin : s.env.periphIn = b :: more)
    (hp : IsPeripheral s a) : s.byteAt a = b := by
  simp [State.byteAt, (isPeripheral_iff s a).mpr hp, State.peripheralAnswer, hin]

theorem afterRead_of_answer {s : State} {a : Addr} {b : Byte} {more : List Byte} (hin : s.env.periphIn = b :: more)
    (hp : IsPeripheral s a) : s.afterRead a = s.heard a b more := by
  simp [State.afterRead, (isPeripheral_iff s a).mpr hp, State.peripheralReadDone, State.peripheralAnswer, hin, State.heard]

theorem afterWrite_peripheral {s : State} {a : Addr} (v : Byte) (hp : IsPeripheral s a) : s.afterWrite a v = s.said a v :=
  if_pos ((isPeripheral_iff s a).mpr hp)

/-! ### Differences one after another -/

/-- A register written after others: its halves are listed before theirs. -/
theorem RegsDiffer.trans {s u t : State} {first second : List (Reg8 × Byte)} (h : RegsDiffer s u first)
    (k : RegsDiffer u t second) (hdisj : ∀ c ∈ first.map Prod.fst, c ∉ second.map Prod.fst) :
    RegsDiffer s t (second ++ first) := by
  obtain ⟨hset, hkeep⟩ := h
  obtain ⟨kset, kkeep⟩ := k
  refine ⟨fun p hp => ?_, fun c hc => ?_⟩
  · rcases List.mem_append.mp hp with hp | hp
    · exact kset p hp
    · rw [kkeep p.1 (hdisj p.1 (List.mem_map_of_mem hp)), hset p hp]
  · rw [List.map_append, List.mem_append, not_or] at hc
    rw [kkeep c hc.1, hkeep c hc.2]

/-- What differs from a state with one word register written differs from the state itself in that register too. -/
theorem Differs.of_setR16 {s t : State} {pc : Addr} {n : Reg16} {v : Word} {flags : List (Flag × Bool)}
    {bytes : List (Addr × Byte)} (h : Differs (s.setR16 n v) t pc [] flags bytes) :
    Differs s t pc (wordReg n v) flags bytes := by
  obtain ⟨hpc, hset, hflags, hbytes, hkeep, hkeepFlags, hkeepBytes, henv, hcpu, hchip⟩ := h
  have hregs : RegsDiffer s t (wordReg n v) := (regsDiffer_setR16 rfl).trans ⟨hset, hkeep⟩ (by simp)
  exact ⟨hpc, hregs.1, hflags, hbytes, hregs.2, hkeepFlags, hkeepBytes, henv, hcpu, hchip⟩

/-! ### MOV.B to a peripheral byte -/

theorem differs_movFlags {w : Nat} (s : State) (v : BitVec w) (len : Addr) :
    Differs s ((s.movFlags v).advance len) (s.pc + len) [] (valueFlags v) [] :=
  .intro rfl (regsDiffer_of_eq rfl) (flagsDiffer_value _ _) (bytesDiffer_of_eq rfl) rfl rfl rfl

theorem moveByteTo_peripheral {s : State} {ea len : Addr} (v : Byte) (hp : IsPeripheral s ea)
    (hn : NotImminent (s.npc len) ea) :
    ∃ t, moveByteTo s ea v len = .next t ∧ Differs (s.said ea v) t (s.pc + len) [] (valueFlags v) [] := by
  refine ⟨_, moveByteTo_next_iff.mpr ⟨hn, .inr hp, rfl⟩, ?_⟩
  rw [afterWrite_peripheral v hp]
  exact differs_movFlags _ _ _

/-- The pointer is decremented before its halves are read (spec/40_data_transfer.md R133). -/
theorem movBPreDec_peripheral {s : State} {rs : Reg8} {rd : Reg16} {v : Byte} (hp : IsPeripheral s (s.r16 rd - 1#16))
    (hn : NotImminent (s.npc 2#16) (s.r16 rd - 1#16)) (hv : v = (s.setR16 rd (s.r16 rd - 1#16)).r8 rs) :
    ∃ t, execMovBPreDec rs rd s = .next t ∧
      Differs (s.said (s.r16 rd - 1#16) v) t (s.pc + 2#16) (wordReg rd (s.r16 rd - 1#16)) (valueFlags v) [] := by
  subst hv
  unfold execMovBPreDec
  dsimp only
  rw [r16_setR16_same]
  obtain ⟨t, ht, hdiffers⟩ := moveByteTo_peripheral (s := s.setR16 rd (s.r16 rd - 1#16)) _ hp hn
  exact ⟨t, ht, Differs.of_setR16 (s := s.said _ _) hdiffers⟩

/-- Settles O60: each mode is one byte store at its effective address, which the environment is told of. -/
theorem byteStoreToPeripheral : Obligations.ByteStoreToPeripheral := by
  intro s
  refine ⟨fun rs rd hp hn => ?_, fun rs disp rd hp hn => ?_, fun rs abs hp hn => ?_, fun rs abs hp hn => ?_,
    fun rs rd v hp hn hv => ?_⟩
  · exact moveByteTo_peripheral _ hp hn
  · exact moveByteTo_peripheral _ hp hn
  · exact moveByteTo_peripheral _ hp hn
  · exact moveByteTo_peripheral _ hp hn
  · exact movBPreDec_peripheral hp hn (hv.trans (r8_setR16 _ _ _ _).symm)

/-! ### Bit instructions on a peripheral byte -/

theorem withBit_bitStore (b : Byte) (n : Imm3) (v : Bool) : WithBit b n v (bitStore v n b) := by
  intro k hk
  exact getLsbD_putBit b n.toNat k v n.isLt

theorem withBit_bitSet (b : Byte) (n : Imm3) : WithBit b n true (bitSet n b) := withBit_bitStore b n true

theorem withBit_bitClear (b : Byte) (n : Imm3) : WithBit b n false (bitClear n b) := withBit_bitStore b n false

theorem withBit_bitInvert (b : Byte) (n : Imm3) : WithBit b n (!b.getLsbD n.toNat) (bitInvert n b) := by
  intro k hk
  have hmask : (bitMask n.toNat).getLsbD k = decide (k = n.toNat) := by
    simpa [putBit] using getLsbD_putBit 0#8 n.toNat k true n.isLt
  rw [bitInvert, BitVec.getLsbD_xor, hmask]
  by_cases h : k = n.toNat
  · simp [h]
  · simp [h]

theorem bitNumber_eq_ofNat (s : State) (rn : Reg8) : bitNumber s rn = BitVec.ofNat 3 (s.r8 rn).toNat := rfl

theorem bitNumber_toNat (s : State) (rn : Reg8) : (bitNumber s rn).toNat = (s.r8 rn).toNat % 8 := by
  rw [bitNumber_eq_ofNat, BitVec.toNat_ofNat]

/-- A read-modify-write instruction on a peripheral byte: a read and a write are told, and memory stays. -/
theorem peripheralBitModify_of {i : Instr} {s : State} {a : Addr} {b : Byte} {more : List Byte} {n : Imm3} {v : Bool}
    {f : Byte → Byte} (hexec : exec i s = modifyMem s a f) (hf : WithBit b n v (f b)) (hin : s.env.periphIn = b :: more)
    (hp : IsPeripheral s a) (hn : NotImminent (s.pc + 4#16) a) : PeripheralBitModify i s a b more n v := by
  refine ⟨f b, _, hf, hexec.trans (modifyMem_next_iff.mpr ⟨hn, .inr hp, rfl⟩), ?_⟩
  rw [byteAt_of_answer hin hp, afterRead_of_answer hin hp, afterWrite_peripheral (s := s.heard a b more) _ hp]
  exact .intro rfl (regsDiffer_of_eq rfl) (flagsDiffer_refl _) (bytesDiffer_of_eq rfl) rfl rfl rfl

/-- The one flag an instruction of the read-only class writes, and its value from C and the bit read (spec/43_bit_manipulation.md
R204 to R212). -/
def BitTest.flagAfter (op : BitTest) (c bit : Bool) : Flag × Bool :=
  match op with
  | .btst => (.z, !bit)
  | .band => (.c, c && bit)
  | .biand => (.c, c && !bit)
  | .bor => (.c, c || bit)
  | .bior => (.c, c || !bit)
  | .bxor => (.c, xor c bit)
  | .bixor => (.c, xor c (!bit))
  | .bld => (.c, bit)
  | .bild => (.c, !bit)

theorem BitTest.ccrAfter_eq_putFlag (op : BitTest) (ccr : Byte) (bit : Bool) :
    op.ccrAfter ccr bit = putFlag ccr (op.flagAfter (getFlag ccr .c) bit).1 (op.flagAfter (getFlag ccr .c) bit).2 := by
  cases op <;> rfl

theorem flagsDiffer_putFlag (c : Byte) (p : Flag × Bool) : FlagsDiffer c (putFlag c p.1 p.2) [p] := by
  refine ⟨by simp, fun f hf => ?_⟩
  rw [getFlag_putFlag, if_neg (by simpa using hf)]

/-- A read-only bit instruction on a peripheral byte: one read is told, and one flag written. -/
theorem peripheralBitTest_of {i : Instr} {s : State} {a : Addr} {b : Byte} {more : List Byte} {n : Imm3} (op : BitTest)
    (hexec : exec i s = testMem s op a n) (hin : s.env.periphIn = b :: more) (hp : IsPeripheral s a) :
    PeripheralBitTest i s a b more (op.flagAfter (s.flag .c) (b.getLsbD n.toNat)) := by
  refine ⟨_, hexec.trans (testMem_next_iff.mpr ⟨.inr hp, rfl⟩), ?_⟩
  rw [byteAt_of_answer hin hp, afterRead_of_answer hin hp, BitTest.ccrAfter_eq_putFlag]
  exact .intro rfl (regsDiffer_of_eq rfl) (flagsDiffer_putFlag _ _) (bytesDiffer_of_eq rfl) rfl rfl rfl

/-- Settles O34: each instruction is its class's access with its own change of the byte, or its own flag. -/
theorem bitModifyPeripheral : Obligations.BitModifyPeripheral := by
  intro s b more hin
  simp only [← bitNumber_eq_ofNat, ← bitNumber_toNat]
  exact ⟨
    fun imm _ hp hn => peripheralBitModify_of rfl (withBit_bitSet b imm) hin hp hn,
    fun imm _ hp hn => peripheralBitModify_of rfl (withBit_bitSet b imm) hin hp hn,
    fun _ _ hp hn => peripheralBitModify_of rfl (withBit_bitSet b _) hin hp hn,
    fun _ _ hp hn => peripheralBitModify_of rfl (withBit_bitSet b _) hin hp hn,
    fun imm _ hp hn => peripheralBitModify_of rfl (withBit_bitClear b imm) hin hp hn,
    fun imm _ hp hn => peripheralBitModify_of rfl (withBit_bitClear b imm) hin hp hn,
    fun _ _ hp hn => peripheralBitModify_of rfl (withBit_bitClear b _) hin hp hn,
    fun _ _ hp hn => peripheralBitModify_of rfl (withBit_bitClear b _) hin hp hn,
    fun imm _ hp hn => peripheralBitModify_of rfl (withBit_bitInvert b imm) hin hp hn,
    fun imm _ hp hn => peripheralBitModify_of rfl (withBit_bitInvert b imm) hin hp hn,
    fun _ _ hp hn => peripheralBitModify_of rfl (withBit_bitInvert b _) hin hp hn,
    fun _ _ hp hn => peripheralBitModify_of rfl (withBit_bitInvert b _) hin hp hn,
    fun imm _ hp hn => peripheralBitModify_of rfl (withBit_bitStore b imm _) hin hp hn,
    fun imm _ hp hn => peripheralBitModify_of rfl (withBit_bitStore b imm _) hin hp hn,
    fun imm _ hp hn => peripheralBitModify_of rfl (withBit_bitStore b imm _) hin hp hn,
    fun imm _ hp hn => peripheralBitModify_of rfl (withBit_bitStore b imm _) hin hp hn,
    fun _ _ hp => peripheralBitTest_of .btst rfl hin hp,
    fun _ _ hp => peripheralBitTest_of .btst rfl hin hp,
    fun _ _ hp => peripheralBitTest_of .btst rfl hin hp,
    fun _ _ hp => peripheralBitTest_of .btst rfl hin hp,
    fun _ _ hp => peripheralBitTest_of .band rfl hin hp,
    fun _ _ hp => peripheralBitTest_of .band rfl hin hp,
    fun _ _ hp => peripheralBitTest_of .biand rfl hin hp,
    fun _ _ hp => peripheralBitTest_of .biand rfl hin hp,
    fun _ _ hp => peripheralBitTest_of .bor rfl hin hp,
    fun _ _ hp => peripheralBitTest_of .bor rfl hin hp,
    fun _ _ hp => peripheralBitTest_of .bior rfl hin hp,
    fun _ _ hp => peripheralBitTest_of .bior rfl hin hp,
    fun _ _ hp => peripheralBitTest_of .bxor rfl hin hp,
    fun _ _ hp => peripheralBitTest_of .bxor rfl hin hp,
    fun _ _ hp => peripheralBitTest_of .bixor rfl hin hp,
    fun _ _ hp => peripheralBitTest_of .bixor rfl hin hp,
    fun _ _ hp => peripheralBitTest_of .bld rfl hin hp,
    fun _ _ hp => peripheralBitTest_of .bld rfl hin hp,
    fun _ _ hp => peripheralBitTest_of .bild rfl hin hp,
    fun _ _ hp => peripheralBitTest_of .bild rfl hin hp⟩

end Sys2Proof.Machine
end

section
/-! SUPPORT. MOV.B and EEPMOV where a peripheral module answers or is told (spec/20_memory.md R62, R72, spec/40_data_transfer.md
R145, spec/46_block_transfer.md R285). -/

namespace Sys2Proof.Machine

/-! ### MOV.B from a peripheral byte -/

theorem loadByte_of_answer {s : State} {ea len : Addr} {b : Byte} {more : List Byte} (rd : Reg8)
    (hin : s.env.periphIn = b :: more) (hp : IsPeripheral s ea) :
    ∃ t, loadByte s ea rd len = .next t ∧ Differs (s.heard ea b more) t (s.pc + len) [(rd, b)] (valueFlags b) [] := by
  refine ⟨_, loadByte_next_iff.mpr ⟨.inr hp, rfl⟩, ?_⟩
  rw [byteAt_of_answer hin hp, afterRead_of_answer hin hp]
  exact .intro rfl (regsDiffer_setR8 rfl) (flagsDiffer_value _ _) (bytesDiffer_of_eq rfl) rfl rfl rfl

/-- A register written and then a half of another one. -/
theorem regsDiffer_setR16_setR8 {s t : State} {n : Reg16} {v : Word} {c : Reg8} {b : Byte} (hc : regOf c ≠ n)
    (h : t.regs = ((s.setR16 n v).setR8 c b).regs) : RegsDiffer s t ((c, b) :: wordReg n v) := by
  refine (regsDiffer_setR16 (t := s.setR16 n v) rfl).trans (regsDiffer_setR8 h) fun d hd hdc => hc ?_
  have hdc : d = c := List.mem_singleton.mp hdc
  exact hdc ▸ (mem_halves d n).mp hd

/-- Both cases of a post-increment load: the destination outside the pointer, or a half of it (R145). -/
theorem movBPostInc_of_answer {s : State} {rs : Reg16} {b : Byte} {more : List Byte} (rd : Reg8)
    (hin : s.env.periphIn = b :: more) (hp : IsPeripheral s (s.r16 rs)) : ∃ t, execMovBPostInc rs rd s = .next t ∧
      (regOf rd ≠ rs → Differs (s.heard (s.r16 rs) b more) t (s.pc + 2#16) ((rd, b) :: wordReg rs (s.r16 rs + 1#16))
        (valueFlags b) []) ∧
      (regOf rd = rs → ∃ v, Differs (s.heard (s.r16 rs) b more) t (s.pc + 2#16) (wordReg rs v) (valueFlags b) []) := by
  have hnext : execMovBPostInc rs rd s =
      .next ((((s.heard (s.r16 rs) b more).postIncByte rs rd b).movFlags b).advance 2#16) :=
    execMovBPostInc_next_iff.mpr ⟨.inr hp, by rw [byteAt_of_answer hin hp, afterRead_of_answer hin hp]⟩
  refine ⟨_, hnext, fun hother => ?_, fun hhalf => ⟨Config.freeWord (s.heard (s.r16 rs) b more).draws, ?_⟩⟩
  · rw [State.postIncByte, if_neg hother]
    exact .intro rfl (regsDiffer_setR16_setR8 hother rfl) (flagsDiffer_value _ _) (bytesDiffer_of_eq rfl) rfl rfl rfl
  · rw [State.postIncByte, if_pos hhalf]
    exact .intro rfl (regsDiffer_setR16 rfl) (flagsDiffer_value _ _) (bytesDiffer_of_eq rfl) rfl rfl rfl

/-! ### The registers of EEPMOV -/

/-- `n` bytes moved: both pointers on by `n`, R4L down by `n`, the other register halves and the CCR as before. -/
structure Moved (n : Nat) (s t : State) : Prop where
  source : t.r16 5#3 = s.r16 5#3 + BitVec.ofNat 16 n
  dest : t.r16 6#3 = s.r16 6#3 + BitVec.ofNat 16 n
  count : t.r8 regR4L = s.r8 regR4L - BitVec.ofNat 8 n
  others : ∀ c : Reg8, c ≠ regR4L → regOf c ≠ 5#3 → regOf c ≠ 6#3 → t.r8 c = s.r8 c
  ccr : t.ccr = s.ccr

theorem Moved.add {m n : Nat} {s u t : State} (h : Moved m s u) (k : Moved n u t) : Moved (m + n) s t where
  source := by rw [k.source, h.source, BitVec.ofNat_add, BitVec.add_assoc]
  dest := by rw [k.dest, h.dest, BitVec.ofNat_add, BitVec.add_assoc]
  count := by rw [k.count, h.count, BitVec.ofNat_add, BitVec.sub_sub]
  others := fun c hcount hsource hdest => (k.others c hcount hsource hdest).trans (h.others c hcount hsource hdest)
  ccr := k.ccr.trans h.ccr

theorem moved_zero {s t : State} (hregs : t.regs = s.regs) (hccr : t.ccr = s.ccr) : Moved 0 s t where
  source := by simp [State.r16, hregs]
  dest := by simp [State.r16, hregs]
  count := by simp [State.r8, State.r16, hregs]
  others := fun c _ _ _ => by simp [State.r8, State.r16, hregs]
  ccr := hccr

theorem moved_of_readByte {s t : State} {a : Addr} {b : Byte} (h : s.readByte a = .ok (b, t)) : Moved 0 s t := by
  obtain ⟨-, -, rfl⟩ := readByte_ok_iff.mp h
  exact moved_zero (afterRead_regs s a) (afterRead_ccr s a)

theorem moved_of_eepmovByte {npc : Addr} {s t : State} (h : eepmovByte npc s = .ok t) : Moved 1 s t := by
  obtain ⟨-, -, -, u, hu, rfl⟩ := eepmovByte_ok_iff.mp h
  have hr8 : ∀ c, u.r8 c = s.r8 c := fun c => by rw [hu, afterWrite_r8, afterRead_r8]
  have hcount : regOf regR4L = 4#3 := rfl
  constructor
  case source => simp [r16_setR8, r16_setR16_other, hcount]
  case dest => simp [r16_setR8, hcount]
  case count => simp
  case others =>
    intro c hcount hsource hdest
    rw [r8_setR8_other _ _ hcount, r8_setR16, if_neg hdest, r8_setR16, if_neg hsource, hr8]
  case ccr => simp [hu]

theorem moved_of_eepmovBytes {npc : Addr} {n : Nat} {s t : State} (h : eepmovBytes npc n s = .ok t) : Moved n s t := by
  induction n generalizing s with
  | zero =>
    cases h
    exact moved_zero rfl rfl
  | succ m ih =>
    obtain ⟨s1, hbyte, hrest⟩ := res_bind_ok_iff.mp h
    rw [Nat.add_comm]
    exact (moved_of_eepmovByte hbyte).add (ih hrest)

theorem moved_of_eepmov {s t : State} (h : execEepmov s = .next t) : Moved (s.r8 regR4L).toNat s t := by
  obtain ⟨⟨_, s1⟩, hsource, h⟩ := res_bind_ok_iff.mp (finish_next_iff.mp h)
  obtain ⟨⟨_, s2⟩, hdest, h⟩ := res_bind_ok_iff.mp h
  obtain ⟨s3, hbytes, h⟩ := res_bind_ok_iff.mp h
  cases h
  have reads : Moved 0 s s2 := (moved_of_readByte hsource).add (moved_of_readByte hdest)
  have moved := reads.add (moved_of_eepmovBytes hbytes)
  rw [Nat.zero_add] at moved
  exact ⟨moved.source, moved.dest, moved.count, moved.others, moved.ccr⟩

/-- The register halves EEPMOV writes when it moves `n` bytes: R4L 0, both pointers on by `n` (R285). -/
def eepmovRegs (s : State) (n : Nat) : List (Reg8 × Byte) :=
  (12#4, 0#8) :: (wordReg 5#3 (s.r16 5#3 + BitVec.ofNat 16 n) ++ wordReg 6#3 (s.r16 6#3 + BitVec.ofNat 16 n))

/-- When `n` is the count in R4L, those are the halves that differ. -/
theorem Moved.regsDiffer {n : Nat} {s t : State} (h : Moved n s t) (hn : n = (s.r8 regR4L).toNat) :
    RegsDiffer s t (eepmovRegs s n) := by
  have hcount : t.r8 regR4L = 0#8 := by
    rw [h.count, hn]
    simp
  refine ⟨List.forall_mem_cons.mpr ⟨hcount, ?_⟩, fun c hc => ?_⟩
  · simp [wordReg, State.r8, h.source, h.dest]
  · rw [eepmovRegs, List.map_cons, List.mem_cons, not_or, List.map_append, List.mem_append, not_or] at hc
    obtain ⟨hcount, hsource, hdest⟩ := hc
    exact h.others c hcount (mt (mem_halves c 5#3).mpr hsource) (mt (mem_halves c 6#3).mpr hdest)

/-! ### The accesses of EEPMOV -/

/-- `g` of the address and the byte of each of `n` places from `a` upward. -/
def along {α : Type} (g : Addr → Byte → α) (a : Addr) (n : Nat) (f : Nat → Byte) : List α :=
  (List.range n).map fun j => g (a + BitVec.ofNat 16 j) (f j)

theorem add_ofNat_succ (a : Addr) (j : Nat) : a + BitVec.ofNat 16 (j + 1) = a + 1#16 + BitVec.ofNat 16 j := by
  rw [Nat.add_comm, BitVec.ofNat_add, BitVec.add_assoc]

theorem along_succ {α : Type} (g : Addr → Byte → α) (a : Addr) (n : Nat) (f : Nat → Byte) :
    along g a (n + 1) f = g a (f 0) :: along g (a + 1#16) n fun j => f (j + 1) := by
  simp only [along, List.range_succ_eq_map, List.map_cons, List.map_map, BitVec.add_zero]
  congr 2
  funext j
  exact congrArg (g · (f (j + 1))) (add_ofNat_succ a j)

theorem not_mem_along_next (a : Addr) {n : Nat} (hn : n < 65536) (f : Nat → Byte) :
    a ∉ (along Prod.mk (a + 1#16) n f).map Prod.fst := by
  simp only [along, List.map_map, List.mem_map, List.mem_range, not_exists, not_and, Function.comp_apply,
    ← add_ofNat_succ]
  intro j hj h
  have hzero : BitVec.ofNat 16 (j + 1) = 0#16 := by simpa using h
  have hwrap := congrArg BitVec.toNat hzero
  simp only [BitVec.toNat_ofNat] at hwrap
  omega

/-- Bytes of memory that differ later, at other addresses, are listed after those that differ first. -/
theorem BytesDiffer.trans {s u t : State} {first second : List (Addr × Byte)} (h : BytesDiffer s u first)
    (k : BytesDiffer u t second) (hdisj : ∀ a ∈ first.map Prod.fst, a ∉ second.map Prod.fst) :
    BytesDiffer s t (first ++ second) := by
  obtain ⟨hset, hkeep⟩ := h
  obtain ⟨kset, kkeep⟩ := k
  refine ⟨fun p hp => ?_, fun a ha => ?_⟩
  · rcases List.mem_append.mp hp with hp | hp
    · exact (kkeep p.1 (hdisj p.1 (List.mem_map_of_mem hp))).trans (hset p hp)
    · exact kset p hp
  · rw [List.map_append, List.mem_append, not_or] at ha
    rw [kkeep a ha.2, hkeep a ha.1]

theorem BytesDiffer.of_mem_eq {s u t : State} {bytes : List (Addr × Byte)} (h : BytesDiffer s u bytes)
    (hmem : t.mem = u.mem) : BytesDiffer s t bytes := by
  simpa only [BytesDiffer, KeepsMem, State.mem8, hmem] using h

theorem readByte_of_answer {s : State} {a : Addr} {b : Byte} {more : List Byte} (hin : s.env.periphIn = b :: more)
    (hp : IsPeripheral s a) : s.readByte a = .ok (b, s.heard a b more) :=
  readByte_ok_iff.mpr ⟨.inr hp, (byteAt_of_answer hin hp).symm, (afterRead_of_answer hin hp).symm⟩

/-- Peripheral bytes to RAM: the answers are used up and stored in their order. -/
theorem run_accessTransfer_fromPeripheral {npc : Addr} {rest : List Byte} (bs : List Byte) :
    ∀ {s : State} {src dst : Addr} {k : Nat}, bs.length ≤ 65536 → 2 * bs.length ≤ k → s.env.periphIn = bs ++ rest →
      (∀ j : Nat, j < bs.length →
        IsPeripheral s (src + BitVec.ofNat 16 j) ∧ ByteStorable s npc (dst + BitVec.ofNat 16 j)) →
      ∃ t, (accessTransfer npc bs.length src dst).run k s = .ok t ∧
        t.env = { s.env with
          periphIn := rest
          seen := (along .read src bs.length (bs.getD · 0x00#8)).reverse ++ s.env.seen } ∧
        BytesDiffer s t (along Prod.mk dst bs.length (bs.getD · 0x00#8)) := by
  induction bs with
  | nil =>
    intro s src dst k _ _ hin _
    refine ⟨s, ?_, ?_, bytesDiffer_of_eq rfl⟩
    · cases k <;> rfl
    · obtain rfl : s.env.periphIn = rest := hin
      rfl
  | cons b bs ih =>
    intro s src dst k hlen hk hin hplaces
    rw [List.length_cons] at hlen hk hplaces
    obtain ⟨k, rfl⟩ : ∃ m, k = m + 2 := ⟨k - 2, by omega⟩
    obtain ⟨hsrc, hdst⟩ := hplaces 0 (Nat.zero_lt_succ _)
    rw [BitVec.add_zero] at hsrc hdst
    have hread : s.readByte src = .ok (b, s.heard src b (bs ++ rest)) := readByte_of_answer hin hsrc
    have hstore := storeByte_ram (s := s.heard src b (bs ++ rest)) b hdst
    obtain ⟨t, hrun, henv, hmem⟩ := ih (s := { s.heard src b (bs ++ rest) with mem := Memory.write s.mem dst.toNat b })
      (src := src + 1#16) (dst := dst + 1#16) (k := k) (by omega) (by omega) rfl fun j hj => by
        rw [← add_ofNat_succ, ← add_ofNat_succ]
        exact hplaces (j + 1) (Nat.succ_lt_succ hj)
    refine ⟨t, ?_, ?_, ?_⟩
    · simp only [List.length_cons, accessTransfer, BusPlan.run, hread, res_ok_bind, hstore]
      exact hrun
    · rw [henv, List.length_cons, along_succ]
      simp [State.heard]
    · rw [List.length_cons, along_succ]
      exact BytesDiffer.trans (first := [(dst, b)]) (bytesDiffer_write rfl) hmem
        (List.forall_mem_singleton.mpr (not_mem_along_next dst (by omega) _))

/-- On-chip memory to peripheral bytes: nothing but what the environment is told changes. -/
theorem run_accessTransfer_toPeripheral {npc : Addr} (n : Nat) : ∀ {s : State} {src dst : Addr} {k : Nat}, 2 * n ≤ k →
    (∀ j : Nat, j < n → IsMemory s (src + BitVec.ofNat 16 j) ∧ IsPeripheral s (dst + BitVec.ofNat 16 j) ∧
      NotImminent npc (dst + BitVec.ofNat 16 j)) →
    (accessTransfer npc n src dst).run k s = .ok { s with env := { s.env with
      seen := (along .write dst n fun j => s.mem8 (src + BitVec.ofNat 16 j)).reverse ++ s.env.seen } } := by
  induction n with
  | zero =>
    intro s src dst k _ _
    cases k <;> rfl
  | succ n ih =>
    intro s src dst k hk hplaces
    obtain ⟨k, rfl⟩ : ∃ m, k = m + 2 := ⟨k - 2, by omega⟩
    obtain ⟨hsrc, hdst, hn⟩ := hplaces 0 (Nat.zero_lt_succ _)
    rw [BitVec.add_zero] at hsrc hdst hn
    have hrun := ih (s := s.said dst (s.mem8 src)) (src := src + 1#16) (dst := dst + 1#16) (k := k) (by omega)
      fun j hj => by
        rw [← add_ofNat_succ, ← add_ofNat_succ]
        exact hplaces (j + 1) (Nat.succ_lt_succ hj)
    simp only [accessTransfer, BusPlan.run, readByte_memory hsrc, res_ok_bind, storeByte_peripheral _ hdst hn]
    refine hrun.trans ?_
    have hbytes : (fun j => s.mem8 (src + BitVec.ofNat 16 (j + 1))) = fun j => s.mem8 (src + 1#16 + BitVec.ofNat 16 j) :=
      funext fun j => congrArg s.mem8 (add_ofNat_succ src j)
    rw [along_succ, hbytes]
    simp [State.said, State.mem8]

/-! ### EEPMOV from and to a peripheral module -/

/-- EEPMOV completes when its two preliminary reads and its transfer do, and leaves the memory and environment they leave. -/
theorem eepmov_next_of_transfer {s s1 s2 u : State} {b1 b2 : Byte} {n : Nat} (hn : n = (s.r8 12#4).toNat)
    (hsource : s.readByte (s.r16 5#3) = .ok (b1, s1)) (hdest : s1.readByte (s.r16 6#3) = .ok (b2, s2))
    (hrun : (accessTransfer (s.npc 4#16) n (s.r16 5#3) (s.r16 6#3)).run 510 s2 = .ok u) :
    ∃ t, execEepmov s = .next t ∧ t.mem = u.mem ∧ t.env = u.env := by
  have haccesses : (dataAccesses .eepmov s).run 512 s = .ok u := by
    simp only [dataAccesses, BusPlan.run, hsource, hdest, res_ok_bind, ← hn, hrun]
  have agrees := agrees_eepmov s 512 le_rfl
  rw [haccesses] at agrees
  cases ht : execEepmov s with
  | next t => exact ⟨t, rfl, (ht ▸ agrees : Agrees (.next t) (.ok u))⟩
  | fault e => exact (ht ▸ agrees : Agrees (.fault e) (.ok u)).elim
  | refused e => exact (ht ▸ agrees : Agrees (.refused e) (.ok u)).elim

/-- What a completed EEPMOV leaves, from what it leaves of memory and the environment. -/
theorem eepmov_differs {s t : State} {n : Nat} {env : Env} {bytes : List (Addr × Byte)} (h : execEepmov s = .next t)
    (hn : n = (s.r8 12#4).toNat) (hmem : BytesDiffer s t bytes) (henv : t.env = env) :
    Differs { s with env := env } t (s.pc + 4#16) (eepmovRegs s n) [] bytes := by
  have moved : Moved n s t := hn ▸ moved_of_eepmov h
  have advances := advances_of_eepmov h
  refine .intro advances.pc (moved.regsDiffer hn) ?_ hmem henv advances.cpuState (tells_of_eepmov h).chip
  rw [moved.ccr]
  exact flagsDiffer_refl _

theorem eepmov_fromPeripheral {s : State} {b : Byte} {bs rest : List Byte} (hin : s.env.periphIn = b :: (bs ++ rest))
    (hn : bs.length = (s.r8 12#4).toNat) (hsrc : IsPeripheral s (s.r16 5#3)) (hdst : IsMemory s (s.r16 6#3))
    (hplaces : ∀ k : Nat, k < bs.length → IsPeripheral s (s.r16 5#3 + BitVec.ofNat 16 k) ∧
      ByteStorable s (s.pc + 4#16) (s.r16 6#3 + BitVec.ofNat 16 k)) :
    ∃ t, execEepmov s = .next t ∧ Differs { s with env := { s.env with
        periphIn := rest
        seen := (along .read (s.r16 5#3) bs.length (bs.getD · 0x00#8)).reverse ++ .read (s.r16 5#3) b :: s.env.seen } } t
      (s.pc + 4#16) (eepmovRegs s bs.length) [] (along Prod.mk (s.r16 6#3) bs.length (bs.getD · 0x00#8)) := by
  have hcount : bs.length < 256 := hn ▸ (s.r8 12#4).isLt
  obtain ⟨u, hrun, henv, hbytes⟩ := run_accessTransfer_fromPeripheral (s := s.heard (s.r16 5#3) b (bs ++ rest))
    (npc := s.npc 4#16) (k := 510) bs (by omega) (by omega) rfl hplaces
  obtain ⟨t, ht, htmem, htenv⟩ := eepmov_next_of_transfer hn (readByte_of_answer hin hsrc) (readByte_memory hdst) hrun
  exact ⟨t, ht, eepmov_differs ht hn (BytesDiffer.of_mem_eq (s := s) hbytes htmem) (htenv.trans henv)⟩

theorem eepmov_toPeripheral {s : State} {b : Byte} {more : List Byte} {n : Nat} (hin : s.env.periphIn = b :: more)
    (hn : n = (s.r8 12#4).toNat) (hsrc : IsMemory s (s.r16 5#3)) (hdst : IsPeripheral s (s.r16 6#3))
    (hplaces : ∀ k : Nat, k < n → IsMemory s (s.r16 5#3 + BitVec.ofNat 16 k) ∧
      IsPeripheral s (s.r16 6#3 + BitVec.ofNat 16 k) ∧ NotImminent (s.pc + 4#16) (s.r16 6#3 + BitVec.ofNat 16 k)) :
    ∃ t, execEepmov s = .next t ∧ Differs { s with env := { s.env with
        periphIn := more
        seen := (along .write (s.r16 6#3) n fun j => s.mem8 (s.r16 5#3 + BitVec.ofNat 16 j)).reverse ++
          .read (s.r16 6#3) b :: s.env.seen } } t
      (s.pc + 4#16) (eepmovRegs s n) [] [] := by
  have hcount : n < 256 := hn ▸ (s.r8 12#4).isLt
  have hrun := run_accessTransfer_toPeripheral (s := s.heard (s.r16 6#3) b more) (npc := s.npc 4#16) (k := 510) n
    (by omega) hplaces
  obtain ⟨t, ht, htmem, htenv⟩ := eepmov_next_of_transfer hn (readByte_memory hsrc) (readByte_of_answer hin hdst) hrun
  exact ⟨t, ht, eepmov_differs ht hn (bytesDiffer_of_eq htmem) htenv⟩

/-- Settles O8: a load takes the one answer; EEPMOV takes one for its preliminary read, then one, or tells one write, per byte. -/
theorem byteLoadFromPeripheral : Obligations.ByteLoadFromPeripheral := by
  intro s b more hin
  refine ⟨fun rs rd hp => loadByte_of_answer rd hin hp, fun rd abs hp => loadByte_of_answer rd hin hp,
    fun disp rs rd hp => loadByte_of_answer rd hin hp, fun abs rd hp => loadByte_of_answer rd hin hp,
    fun rs rd hother hp => ?_, fun rs rd hhalf hp => ?_, fun n bs rest hn hlen hmore hsrc hdst hplaces => ?_,
    fun n hn hsrc hdst hplaces => eepmov_toPeripheral hin hn hsrc hdst hplaces⟩
  · obtain ⟨t, ht, hdiffers, -⟩ := movBPostInc_of_answer rd hin hp
    exact ⟨t, ht, hdiffers hother⟩
  · obtain ⟨t, ht, -, hdiffers⟩ := movBPostInc_of_answer rd hin hp
    obtain ⟨v, hv⟩ := hdiffers hhalf
    exact ⟨t, v, ht, hv⟩
  · subst hlen
    exact eepmov_fromPeripheral (hmore ▸ hin) hn hsrc hdst hplaces

end Sys2Proof.Machine
end

section
/-! SUPPORT. The operand formats of the decoder: for each, once, which bytes it accepts and what it makes of their fields
(spec/30_encoding.md R82, R84, R85). -/

namespace Sys2Proof.Machine

/-! ### Nibbles and fields -/

@[simp] theorem hiNibble_joinNibbles (h l : Nibble) : hiNibble (joinNibbles h l) = h := by
  revert h l; decide

@[simp] theorem loNibble_joinNibbles (h l : Nibble) : loNibble (joinNibbles h l) = l := by
  revert h l; decide

theorem joinNibbles_hi_lo (b : Byte) : joinNibbles (hiNibble b) (loNibble b) = b := by
  revert b; decide

@[simp] theorem topBit_nibbleOf (top : Bool) (r : BitVec 3) : topBit (nibbleOf top r) = top := isLowHalf_nibbleOf top r

@[simp] theorem low3_nibbleOf (top : Bool) (r : BitVec 3) : low3 (nibbleOf top r) = r := regOf_nibbleOf top r

theorem exists_eq_ofNat {w : Nat} (b : BitVec w) : ∃ n, b = BitVec.ofNat w n ∧ (BitVec.ofNat w n).toNat = n :=
  ⟨b.toNat, by simp, by simp⟩

theorem exists_joinNibbles (b : Byte) : ∃ h l, b = joinNibbles h l := ⟨_, _, (joinNibbles_hi_lo b).symm⟩

theorem exists_nibbleOf (n : Nibble) : ∃ top r, n = nibbleOf top r := ⟨_, _, (nibbleOf_parts n).symm⟩

@[simp] theorem joinNibbles_inj {h l h' l' : Nibble} : joinNibbles h l = joinNibbles h' l' ↔ h = h' ∧ l = l' := by
  refine ⟨fun e => ⟨?_, ?_⟩, fun ⟨eh, el⟩ => eh ▸ el ▸ rfl⟩
  · simpa using congrArg hiNibble e
  · simpa using congrArg loNibble e

@[simp] theorem nibbleOf_inj {t t' : Bool} {r r' : BitVec 3} : nibbleOf t r = nibbleOf t' r' ↔ t = t' ∧ r = r' := by
  refine ⟨fun e => ⟨?_, ?_⟩, fun ⟨et, er⟩ => et ▸ er ▸ rfl⟩
  · simpa using congrArg topBit e
  · simpa using congrArg low3 e

/-! ### The operand formats (R84, R85): which bytes each accepts, and what it makes of their fields -/

theorem asFixed_ok_iff {ok : Bool} {i j : Instr} : asFixed ok i = .ok j ↔ ok = true ∧ j = i := by
  cases ok <;> simp [asFixed, eq_comm]

section
variable {b : Byte} {i : Instr}

theorem asRR_ok_iff {f : Reg8 → Reg8 → Instr} : asRR b f = .ok i ↔ ∃ r q, b = joinNibbles r q ∧ i = f r q := by
  obtain ⟨h, l, rfl⟩ := exists_joinNibbles b
  simp [asRR, eq_comm, and_assoc]

theorem asWW_ok_iff {f : Reg16 → Reg16 → Instr} :
    asWW b f = .ok i ↔ ∃ r q, b = joinNibbles (nibbleOf false r) (nibbleOf false q) ∧ i = f r q := by
  obtain ⟨h, l, rfl⟩ := exists_joinNibbles b
  obtain ⟨top, r, rfl⟩ := exists_nibbleOf h
  obtain ⟨top', q, rfl⟩ := exists_nibbleOf l
  simp [asWW, asFixed_ok_iff, and_assoc]

theorem asRW_ok_iff {f : Reg8 → Reg16 → Instr} :
    asRW b f = .ok i ↔ ∃ r q, b = joinNibbles r (nibbleOf false q) ∧ i = f r q := by
  obtain ⟨r, l, rfl⟩ := exists_joinNibbles b
  obtain ⟨top, q, rfl⟩ := exists_nibbleOf l
  simp [asRW, asFixed_ok_iff, and_assoc]

theorem asSub0_ok_iff {f : Reg8 → Instr} : asSub0 b f = .ok i ↔ ∃ r, b = joinNibbles 0#4 r ∧ i = f r := by
  obtain ⟨sub, r, rfl⟩ := exists_joinNibbles b
  simp [asSub0, asFixed_ok_iff, and_assoc]

theorem asSub08_ok_iff {f g : Reg8 → Instr} :
    asSub08 b f g = .ok i ↔ (∃ r, b = joinNibbles 0#4 r ∧ i = f r) ∨ ∃ r, b = joinNibbles 8#4 r ∧ i = g r := by
  obtain ⟨sub, r, rfl⟩ := exists_joinNibbles b
  by_cases hsub : sub = 8#4
  · subst hsub
    simp [asSub08, eq_comm]
  · simp [asSub08, asSub0_ok_iff, hsub]

theorem asSubW_ok_iff {sub : Nibble} {f : Reg16 → Instr} :
    asSubW b sub f = .ok i ↔ ∃ r, b = joinNibbles sub (nibbleOf false r) ∧ i = f r := by
  obtain ⟨sub', l, rfl⟩ := exists_joinNibbles b
  obtain ⟨top, r, rfl⟩ := exists_nibbleOf l
  simp [asSubW, asFixed_ok_iff, and_assoc]

theorem asSubW08_ok_iff {f g : Reg16 → Instr} : asSubW08 b f g = .ok i ↔
    (∃ r, b = joinNibbles 0#4 (nibbleOf false r) ∧ i = f r) ∨ ∃ r, b = joinNibbles 8#4 (nibbleOf false r) ∧ i = g r := by
  obtain ⟨sub, l, rfl⟩ := exists_joinNibbles b
  by_cases hsub : sub = 8#4
  · subst hsub
    simp [asSubW08, asSubW_ok_iff]
  · simp [asSubW08, asSubW_ok_iff, hsub]

theorem asJR_ok_iff {f : Reg16 → Instr} : asJR b f = .ok i ↔ ∃ r, b = joinNibbles (nibbleOf false r) 0#4 ∧ i = f r := by
  obtain ⟨h, l, rfl⟩ := exists_joinNibbles b
  obtain ⟨top, r, rfl⟩ := exists_nibbleOf h
  simp [asJR, asFixed_ok_iff, and_assoc]

theorem asMR8_ok_iff {load : Reg16 → Reg8 → Instr} {store : Reg8 → Reg16 → Instr} : asMR8 b load store = .ok i ↔
    (∃ r c, b = joinNibbles (nibbleOf false r) c ∧ i = load r c) ∨
      ∃ r c, b = joinNibbles (nibbleOf true r) c ∧ i = store c r := by
  obtain ⟨h, c, rfl⟩ := exists_joinNibbles b
  obtain ⟨top, r, rfl⟩ := exists_nibbleOf h
  cases top <;> simp [asMR8, and_assoc, eq_comm]

theorem asMR16_ok_iff {load store : Reg16 → Reg16 → Instr} : asMR16 b load store = .ok i ↔
    (∃ r q, b = joinNibbles (nibbleOf false r) (nibbleOf false q) ∧ i = load r q) ∨
      ∃ r q, b = joinNibbles (nibbleOf true r) (nibbleOf false q) ∧ i = store q r := by
  obtain ⟨h, l, rfl⟩ := exists_joinNibbles b
  obtain ⟨top, r, rfl⟩ := exists_nibbleOf h
  obtain ⟨top', q, rfl⟩ := exists_nibbleOf l
  cases top <;> simp [asMR16, asFixed_ok_iff, and_assoc]

theorem asBit_ok_iff {f : Imm3 → Reg8 → Instr} :
    asBit b f = .ok i ↔ ∃ k c, b = joinNibbles (nibbleOf false k) c ∧ i = f k c := by
  obtain ⟨h, c, rfl⟩ := exists_joinNibbles b
  obtain ⟨top, k, rfl⟩ := exists_nibbleOf h
  simp [asBit, asFixed_ok_iff, and_assoc]

theorem asBitInv_ok_iff {f g : Imm3 → Reg8 → Instr} : asBitInv b f g = .ok i ↔
    (∃ k c, b = joinNibbles (nibbleOf false k) c ∧ i = f k c) ∨ ∃ k c, b = joinNibbles (nibbleOf true k) c ∧ i = g k c := by
  obtain ⟨h, c, rfl⟩ := exists_joinNibbles b
  obtain ⟨top, k, rfl⟩ := exists_nibbleOf h
  cases top <;> simp [asBitInv, and_assoc, eq_comm]

theorem asBitM_ok_iff {f : Imm3 → Instr} : asBitM b f = .ok i ↔ ∃ k, b = joinNibbles (nibbleOf false k) 0#4 ∧ i = f k := by
  obtain ⟨h, l, rfl⟩ := exists_joinNibbles b
  obtain ⟨top, k, rfl⟩ := exists_nibbleOf h
  simp [asBitM, asFixed_ok_iff, and_assoc]

theorem asBitMInv_ok_iff {f g : Imm3 → Instr} : asBitMInv b f g = .ok i ↔
    (∃ k, b = joinNibbles (nibbleOf false k) 0#4 ∧ i = f k) ∨ ∃ k, b = joinNibbles (nibbleOf true k) 0#4 ∧ i = g k := by
  obtain ⟨h, l, rfl⟩ := exists_joinNibbles b
  obtain ⟨top, k, rfl⟩ := exists_nibbleOf h
  cases top <;> simp [asBitMInv, asFixed_ok_iff, and_assoc]

theorem asBitMReg_ok_iff {f : Reg8 → Instr} : asBitMReg b f = .ok i ↔ ∃ r, b = joinNibbles r 0#4 ∧ i = f r := by
  obtain ⟨r, l, rfl⟩ := exists_joinNibbles b
  simp [asBitMReg, asFixed_ok_iff, and_assoc]

theorem withIndByte_ok_iff {f : Reg16 → Decoded} :
    withIndByte b f = .ok i ↔ ∃ r, b = joinNibbles (nibbleOf false r) 0#4 ∧ f r = .ok i := by
  obtain ⟨h, l, rfl⟩ := exists_joinNibbles b
  obtain ⟨top, r, rfl⟩ := exists_nibbleOf h
  cases top <;> by_cases hl : l = 0#4 <;> simp [withIndByte, hl]

end

end Sys2Proof.Machine
end

section
/-! SUPPORT. Decoding and encoding are inverse to each other (spec/30_encoding.md R98, R100, R102), and bytes that are no instruction
are refused (R101). -/

namespace Sys2Proof.Machine

/-! ### From an instruction to its bytes and back (R98) -/

theorem decode_of_decodeShort {i : Instr} {k b : Byte} (rest : List Byte) (hi : encode i = [joinBytes k b])
    (hk : isLong k = false) (hd : decodeShort k b = .ok i) : decode (storageBytes (encode i) ++ rest) = .ok (i, rest) := by
  simp only [hi, storageBytes, hiByte_joinBytes, loByte_joinBytes, List.cons_append, List.nil_append, decode_short hk, hd]
  rfl

theorem decode_of_decodeLong {i : Instr} {k b : Byte} {w : Word} (rest : List Byte) (hi : encode i = [joinBytes k b, w])
    (hk : isLong k = true) (hd : decodeLong k b (hiByte w) (loByte w) = .ok i) :
    decode (storageBytes (encode i) ++ rest) = .ok (i, rest) := by
  simp only [hi, storageBytes, hiByte_joinBytes, loByte_joinBytes, List.cons_append, List.nil_append, decode_long hk, hd]
  rfl

theorem decode_encode {i : Instr} (rest : List Byte) (hwf : i.wf = true) :
    decode (storageBytes (encode i) ++ rest) = .ok (i, rest) := by
  cases i
  case nop | sleep | orc | xorc | andc | ldcImm | bra | brn | bhi | bls | bcc | bcs | bne | beq | bvc | bvs | bpl | bmi | bge
      | blt | bgt | ble | rts | bsr | rte | jmpMem | jsrMem =>
    exact decode_of_decodeShort rest rfl rfl rfl
  case movBLoadAbs8 | movBStoreAbs8 | addBImm | addxImm | cmpBImm | subxImm | orImm | xorImm | andImm | movBImm =>
    exact decode_of_decodeShort rest rfl (Laws.EncodeLength.isLong_nibbles _ _ (by decide)) (by simp [decodeShort])
  case addBReg | movBReg | addxReg | orReg | xorReg | andReg | subB | cmpBReg | subxReg | bsetRegReg | bnotRegReg | bclrRegReg
      | btstRegReg =>
    exact decode_of_decodeShort rest rfl rfl (asRR_ok_iff.mpr ⟨_, _, rfl, rfl⟩)
  case addW | movWReg | subW | cmpW => exact decode_of_decodeShort rest rfl rfl (asWW_ok_iff.mpr ⟨_, _, rfl, rfl⟩)
  case mulxu | divxu => exact decode_of_decodeShort rest rfl rfl (asRW_ok_iff.mpr ⟨_, _, rfl, rfl⟩)
  case stc | ldcReg | inc | daa | dec | das => exact decode_of_decodeShort rest rfl rfl (asSub0_ok_iff.mpr ⟨_, rfl, rfl⟩)
  case shll | shlr | rotxl | rotxr | notReg =>
    exact decode_of_decodeShort rest rfl rfl (asSub08_ok_iff.mpr (.inl ⟨_, rfl, rfl⟩))
  case shal | shar | rotl | rotr | neg => exact decode_of_decodeShort rest rfl rfl (asSub08_ok_iff.mpr (.inr ⟨_, rfl, rfl⟩))
  case adds1 | subs1 => exact decode_of_decodeShort rest rfl rfl (asSubW08_ok_iff.mpr (.inl ⟨_, rfl, rfl⟩))
  case adds2 | subs2 => exact decode_of_decodeShort rest rfl rfl (asSubW08_ok_iff.mpr (.inr ⟨_, rfl, rfl⟩))
  case jmpInd | jsrInd => exact decode_of_decodeShort rest rfl rfl (asJR_ok_iff.mpr ⟨_, rfl, rfl⟩)
  case bsetImmReg | bnotImmReg | bclrImmReg | btstImmReg =>
    exact decode_of_decodeShort rest rfl rfl (asBit_ok_iff.mpr ⟨_, _, rfl, rfl⟩)
  case bstImmReg | borImmReg | bxorImmReg | bandImmReg | bldImmReg =>
    exact decode_of_decodeShort rest rfl rfl (asBitInv_ok_iff.mpr (.inl ⟨_, _, rfl, rfl⟩))
  case bistImmReg | biorImmReg | bixorImmReg | biandImmReg | bildImmReg =>
    exact decode_of_decodeShort rest rfl rfl (asBitInv_ok_iff.mpr (.inr ⟨_, _, rfl, rfl⟩))
  case movBLoadInd | movBPostInc => exact decode_of_decodeShort rest rfl rfl (asMR8_ok_iff.mpr (.inl ⟨_, _, rfl, rfl⟩))
  case movBStoreInd | movBPreDec => exact decode_of_decodeShort rest rfl rfl (asMR8_ok_iff.mpr (.inr ⟨_, _, rfl, rfl⟩))
  case movWLoadInd => exact decode_of_decodeShort rest rfl rfl (asMR16_ok_iff.mpr (.inl ⟨_, _, rfl, rfl⟩))
  case movWStoreInd => exact decode_of_decodeShort rest rfl rfl (asMR16_ok_iff.mpr (.inr ⟨_, _, rfl, rfl⟩))
  case pop => exact decode_of_decodeShort rest rfl rfl (asMR16_ok_iff.mpr (.inl ⟨7#3, _, rfl, rfl⟩))
  case push => exact decode_of_decodeShort rest rfl rfl (asMR16_ok_iff.mpr (.inr ⟨7#3, _, rfl, rfl⟩))
  case movWPostInc =>
    exact decode_of_decodeShort rest rfl rfl (asMR16_ok_iff.mpr (.inl ⟨_, _, rfl, (if_neg (bne_iff_ne.mp hwf)).symm⟩))
  case movWPreDec =>
    exact decode_of_decodeShort rest rfl rfl (asMR16_ok_iff.mpr (.inr ⟨_, _, rfl, (if_neg (bne_iff_ne.mp hwf)).symm⟩))
  case jmpAbs | jsrAbs => exact decode_of_decodeLong rest rfl rfl (by simp [decodeLong, asFixed_ok_iff])
  case movBLoadAbs16 | movBStoreAbs16 => exact decode_of_decodeLong rest rfl rfl (by simp [decodeLong, asSub08_ok_iff])
  case movWLoadAbs16 | movWStoreAbs16 => exact decode_of_decodeLong rest rfl rfl (by simp [decodeLong, asSubW08_ok_iff])
  case movBLoadDisp | movBStoreDisp => exact decode_of_decodeLong rest rfl rfl (by simp [decodeLong, asMR8_ok_iff])
  case movWLoadDisp | movWStoreDisp => exact decode_of_decodeLong rest rfl rfl (by simp [decodeLong, asMR16_ok_iff])
  case movWImm => exact decode_of_decodeLong rest rfl rfl (by simp [decodeLong, asSubW_ok_iff])
  case eepmov => exact decode_of_decodeLong rest rfl rfl (by simp [decodeLong])
  case btstRegInd | btstImmInd | borImmInd | biorImmInd | bxorImmInd | bixorImmInd | bandImmInd | biandImmInd | bldImmInd
      | bildImmInd =>
    exact decode_of_decodeLong rest rfl rfl
      (by simp [decodeLong, withIndByte_ok_iff, decodeBitReadInd, asBitMReg_ok_iff, asBitM_ok_iff, asBitMInv_ok_iff])
  case btstRegAbs | btstImmAbs | borImmAbs | biorImmAbs | bxorImmAbs | bixorImmAbs | bandImmAbs | biandImmAbs | bldImmAbs
      | bildImmAbs =>
    exact decode_of_decodeLong rest rfl rfl
      (by simp [decodeLong, decodeBitReadAbs, asBitMReg_ok_iff, asBitM_ok_iff, asBitMInv_ok_iff])
  case bsetRegInd | bnotRegInd | bclrRegInd | bsetImmInd | bnotImmInd | bclrImmInd | bstImmInd | bistImmInd =>
    exact decode_of_decodeLong rest rfl rfl
      (by simp [decodeLong, withIndByte_ok_iff, decodeBitModifyInd, asBitMReg_ok_iff, asBitM_ok_iff, asBitMInv_ok_iff])
  case bsetRegAbs | bnotRegAbs | bclrRegAbs | bsetImmAbs | bnotImmAbs | bclrImmAbs | bstImmAbs | bistImmAbs =>
    exact decode_of_decodeLong rest rfl rfl
      (by simp [decodeLong, decodeBitModifyAbs, asBitMReg_ok_iff, asBitM_ok_iff, asBitMInv_ok_iff])

/-- Settles O2: each constructor under the operand format its code row uses. -/
theorem decodeOfEncode : Obligations.DecodeOfEncode := fun _ rest hwf => decode_encode rest hwf

/-- Settles O1: each group of bytes is the encoding of its instruction. -/
theorem sampleWordsDecode : Obligations.SampleWordsDecode :=
  ⟨decode_encode (i := .movBReg 9#4 2#4) [] rfl, decode_encode (i := .movWLoadDisp 0x0002#16 7#3 0#3) [] rfl,
    decode_encode (i := .divxu 8#4 1#3) [] rfl, decode_encode (i := .bsetRegReg 9#4 2#4) [] rfl,
    decode_encode (i := .bldImmAbs 5#3 0x02#8) [] rfl, decode_encode (i := .bistImmReg 4#3 1#4) [] rfl,
    decode_encode (i := .jsrAbs 0x0400#16) [] rfl, decode_encode (i := .rte) [] rfl, decode_encode (i := .eepmov) [] rfl⟩

/-! ### From bytes to the instruction and back (R102, D5) -/

/-- `i` is well formed, and `words` are its words. -/
structure Spells (words : List Word) (i : Instr) : Prop where
  wf : i.wf = true
  encode : encode i = words

/-- `d` is what the byte `b` decodes to where the code has the words `words b`: if it is an instruction, those are its words. -/
def SpelledBy (words : Byte → List Word) (b : Byte) (d : Decoded) : Prop := ∀ i, d = .ok i → Spells (words b) i

section
variable {words : Byte → List Word} {b : Byte}

theorem SpelledBy.error (e : DecodeError) : SpelledBy words b (.error e) := nofun

theorem SpelledBy.ok {i : Instr} (h : Spells (words b) i) : SpelledBy words b (.ok i) := by
  rintro j ⟨⟩
  exact h

theorem SpelledBy.fixed {v : Byte} {i : Instr} (h : Spells (words v) i) : SpelledBy words b (asFixed (b == v) i) := by
  intro j hj
  obtain ⟨hb, rfl⟩ := asFixed_ok_iff.mp hj
  obtain rfl := eq_of_beq hb
  exact h

theorem SpelledBy.asRR {f : Reg8 → Reg8 → Instr} (h : ∀ r q, Spells (words (joinNibbles r q)) (f r q)) :
    SpelledBy words b (asRR b f) := by
  intro i hi
  obtain ⟨r, q, rfl, rfl⟩ := asRR_ok_iff.mp hi
  exact h r q

theorem SpelledBy.asWW {f : Reg16 → Reg16 → Instr}
    (h : ∀ r q, Spells (words (joinNibbles (nibbleOf false r) (nibbleOf false q))) (f r q)) :
    SpelledBy words b (asWW b f) := by
  intro i hi
  obtain ⟨r, q, rfl, rfl⟩ := asWW_ok_iff.mp hi
  exact h r q

theorem SpelledBy.asRW {f : Reg8 → Reg16 → Instr} (h : ∀ r q, Spells (words (joinNibbles r (nibbleOf false q))) (f r q)) :
    SpelledBy words b (asRW b f) := by
  intro i hi
  obtain ⟨r, q, rfl, rfl⟩ := asRW_ok_iff.mp hi
  exact h r q

theorem SpelledBy.asSub0 {f : Reg8 → Instr} (h : ∀ r, Spells (words (joinNibbles 0#4 r)) (f r)) :
    SpelledBy words b (asSub0 b f) := by
  intro i hi
  obtain ⟨r, rfl, rfl⟩ := asSub0_ok_iff.mp hi
  exact h r

theorem SpelledBy.asSub08 {f g : Reg8 → Instr} (hf : ∀ r, Spells (words (joinNibbles 0#4 r)) (f r))
    (hg : ∀ r, Spells (words (joinNibbles 8#4 r)) (g r)) : SpelledBy words b (asSub08 b f g) := by
  intro i hi
  obtain ⟨r, rfl, rfl⟩ | ⟨r, rfl, rfl⟩ := asSub08_ok_iff.mp hi
  · exact hf r
  · exact hg r

theorem SpelledBy.asSubW {sub : Nibble} {f : Reg16 → Instr}
    (h : ∀ r, Spells (words (joinNibbles sub (nibbleOf false r))) (f r)) : SpelledBy words b (asSubW b sub f) := by
  intro i hi
  obtain ⟨r, rfl, rfl⟩ := asSubW_ok_iff.mp hi
  exact h r

theorem SpelledBy.asSubW08 {f g : Reg16 → Instr} (hf : ∀ r, Spells (words (joinNibbles 0#4 (nibbleOf false r))) (f r))
    (hg : ∀ r, Spells (words (joinNibbles 8#4 (nibbleOf false r))) (g r)) : SpelledBy words b (asSubW08 b f g) := by
  intro i hi
  obtain ⟨r, rfl, rfl⟩ | ⟨r, rfl, rfl⟩ := asSubW08_ok_iff.mp hi
  · exact hf r
  · exact hg r

theorem SpelledBy.asJR {f : Reg16 → Instr} (h : ∀ r, Spells (words (joinNibbles (nibbleOf false r) 0#4)) (f r)) :
    SpelledBy words b (asJR b f) := by
  intro i hi
  obtain ⟨r, rfl, rfl⟩ := asJR_ok_iff.mp hi
  exact h r

theorem SpelledBy.asMR8 {load : Reg16 → Reg8 → Instr} {store : Reg8 → Reg16 → Instr}
    (hl : ∀ r c, Spells (words (joinNibbles (nibbleOf false r) c)) (load r c))
    (hs : ∀ r c, Spells (words (joinNibbles (nibbleOf true r) c)) (store c r)) : SpelledBy words b (asMR8 b load store) := by
  intro i hi
  obtain ⟨r, c, rfl, rfl⟩ | ⟨r, c, rfl, rfl⟩ := asMR8_ok_iff.mp hi
  · exact hl r c
  · exact hs r c

theorem SpelledBy.asMR16 {load store : Reg16 → Reg16 → Instr}
    (hl : ∀ r q, Spells (words (joinNibbles (nibbleOf false r) (nibbleOf false q))) (load r q))
    (hs : ∀ r q, Spells (words (joinNibbles (nibbleOf true r) (nibbleOf false q))) (store q r)) :
    SpelledBy words b (asMR16 b load store) := by
  intro i hi
  obtain ⟨r, q, rfl, rfl⟩ | ⟨r, q, rfl, rfl⟩ := asMR16_ok_iff.mp hi
  · exact hl r q
  · exact hs r q

theorem SpelledBy.asBit {f : Imm3 → Reg8 → Instr} (h : ∀ k c, Spells (words (joinNibbles (nibbleOf false k) c)) (f k c)) :
    SpelledBy words b (asBit b f) := by
  intro i hi
  obtain ⟨k, c, rfl, rfl⟩ := asBit_ok_iff.mp hi
  exact h k c

theorem SpelledBy.asBitInv {f g : Imm3 → Reg8 → Instr}
    (hf : ∀ k c, Spells (words (joinNibbles (nibbleOf false k) c)) (f k c))
    (hg : ∀ k c, Spells (words (joinNibbles (nibbleOf true k) c)) (g k c)) : SpelledBy words b (asBitInv b f g) := by
  intro i hi
  obtain ⟨k, c, rfl, rfl⟩ | ⟨k, c, rfl, rfl⟩ := asBitInv_ok_iff.mp hi
  · exact hf k c
  · exact hg k c

theorem SpelledBy.asBitM {f : Imm3 → Instr} (h : ∀ k, Spells (words (joinNibbles (nibbleOf false k) 0#4)) (f k)) :
    SpelledBy words b (asBitM b f) := by
  intro i hi
  obtain ⟨k, rfl, rfl⟩ := asBitM_ok_iff.mp hi
  exact h k

theorem SpelledBy.asBitMInv {f g : Imm3 → Instr} (hf : ∀ k, Spells (words (joinNibbles (nibbleOf false k) 0#4)) (f k))
    (hg : ∀ k, Spells (words (joinNibbles (nibbleOf true k) 0#4)) (g k)) : SpelledBy words b (asBitMInv b f g) := by
  intro i hi
  obtain ⟨k, rfl, rfl⟩ | ⟨k, rfl, rfl⟩ := asBitMInv_ok_iff.mp hi
  · exact hf k
  · exact hg k

theorem SpelledBy.asBitMReg {f : Reg8 → Instr} (h : ∀ r, Spells (words (joinNibbles r 0#4)) (f r)) :
    SpelledBy words b (asBitMReg b f) := by
  intro i hi
  obtain ⟨r, rfl, rfl⟩ := asBitMReg_ok_iff.mp hi
  exact h r

theorem SpelledBy.withIndByte {f : Reg16 → Decoded}
    (h : ∀ r i, f r = .ok i → Spells (words (joinNibbles (nibbleOf false r) 0#4)) i) :
    SpelledBy words b (withIndByte b f) := by
  intro i hi
  obtain ⟨r, rfl, hr⟩ := withIndByte_ok_iff.mp hi
  exact h r i hr

end

/-! ### The operation code map (R98) -/

/-- The one word of a 2-byte instruction whose first byte has the digits `hi` and `lo`, by its second byte. -/
def oneWord (hi lo : Nibble) (b2 : Byte) : List Word := [joinBytes (joinNibbles hi lo) b2]

theorem spells_movWPostIncOrPop (rs rd : Reg16) :
    Spells [joinBytes 0x6D#8 (joinNibbles (nibbleOf false rs) (nibbleOf false rd))] (movWPostIncOrPop rs rd) := by
  unfold movWPostIncOrPop
  split
  case isTrue h =>
    subst h
    exact ⟨rfl, rfl⟩
  case isFalse h => exact ⟨bne_iff_ne.mpr h, rfl⟩

theorem spells_movWPreDecOrPush (rs rd : Reg16) :
    Spells [joinBytes 0x6D#8 (joinNibbles (nibbleOf true rd) (nibbleOf false rs))] (movWPreDecOrPush rs rd) := by
  unfold movWPreDecOrPush
  split
  case isTrue h =>
    subst h
    exact ⟨rfl, rfl⟩
  case isFalse h => exact ⟨bne_iff_ne.mpr h, rfl⟩

theorem decode0x_spelled {lo : Nat} (hlo : lo < 16) (b2 : Byte) :
    SpelledBy (oneWord 0#4 (BitVec.ofNat 4 lo)) b2 (decode0x lo b2) := by
  interval_cases lo
  · exact .fixed ⟨rfl, rfl⟩
  · exact .fixed ⟨rfl, rfl⟩
  iterate 2 exact .asSub0 fun _ => ⟨rfl, rfl⟩
  iterate 4 exact .ok ⟨rfl, rfl⟩
  · exact .asRR fun _ _ => ⟨rfl, rfl⟩
  · exact .asWW fun _ _ => ⟨rfl, rfl⟩
  · exact .asSub0 fun _ => ⟨rfl, rfl⟩
  · exact .asSubW08 (fun _ => ⟨rfl, rfl⟩) fun _ => ⟨rfl, rfl⟩
  · exact .asRR fun _ _ => ⟨rfl, rfl⟩
  · exact .asWW fun _ _ => ⟨rfl, rfl⟩
  · exact .asRR fun _ _ => ⟨rfl, rfl⟩
  · exact .asSub0 fun _ => ⟨rfl, rfl⟩

theorem decode1x_spelled {lo : Nat} (hlo : lo < 16) (b2 : Byte) :
    SpelledBy (oneWord 1#4 (BitVec.ofNat 4 lo)) b2 (decode1x lo b2) := by
  interval_cases lo
  iterate 4 exact .asSub08 (fun _ => ⟨rfl, rfl⟩) fun _ => ⟨rfl, rfl⟩
  iterate 3 exact .asRR fun _ _ => ⟨rfl, rfl⟩
  · exact .asSub08 (fun _ => ⟨rfl, rfl⟩) fun _ => ⟨rfl, rfl⟩
  · exact .asRR fun _ _ => ⟨rfl, rfl⟩
  · exact .asWW fun _ _ => ⟨rfl, rfl⟩
  · exact .asSub0 fun _ => ⟨rfl, rfl⟩
  · exact .asSubW08 (fun _ => ⟨rfl, rfl⟩) fun _ => ⟨rfl, rfl⟩
  · exact .asRR fun _ _ => ⟨rfl, rfl⟩
  · exact .asWW fun _ _ => ⟨rfl, rfl⟩
  · exact .asRR fun _ _ => ⟨rfl, rfl⟩
  · exact .asSub0 fun _ => ⟨rfl, rfl⟩

theorem decode4x_spelled {lo : Nat} (hlo : lo < 16) (disp : Byte) :
    SpelledBy (oneWord 4#4 (BitVec.ofNat 4 lo)) disp (decode4x lo disp) := by
  interval_cases lo
  iterate 16 exact .ok ⟨rfl, rfl⟩

theorem decode5x_spelled (lo : Nat) (b2 : Byte) : SpelledBy (oneWord 5#4 (BitVec.ofNat 4 lo)) b2 (decode5x lo b2) := by
  unfold decode5x
  split
  iterate 2 exact .asRW fun _ _ => ⟨rfl, rfl⟩
  · exact .fixed ⟨rfl, rfl⟩
  · exact .ok ⟨rfl, rfl⟩
  · exact .fixed ⟨rfl, rfl⟩
  · exact .asJR fun _ => ⟨rfl, rfl⟩
  · exact .ok ⟨rfl, rfl⟩
  · exact .asJR fun _ => ⟨rfl, rfl⟩
  · exact .ok ⟨rfl, rfl⟩
  · exact .error _

theorem decode6x_spelled (lo : Nat) (b2 : Byte) : SpelledBy (oneWord 6#4 (BitVec.ofNat 4 lo)) b2 (decode6x lo b2) := by
  unfold decode6x
  split
  iterate 4 exact .asRR fun _ _ => ⟨rfl, rfl⟩
  · exact .asBitInv (fun _ _ => ⟨rfl, rfl⟩) fun _ _ => ⟨rfl, rfl⟩
  · exact .asMR8 (fun _ _ => ⟨rfl, rfl⟩) fun _ _ => ⟨rfl, rfl⟩
  · exact .asMR16 (fun _ _ => ⟨rfl, rfl⟩) fun _ _ => ⟨rfl, rfl⟩
  · exact .asMR8 (fun _ _ => ⟨rfl, rfl⟩) fun _ _ => ⟨rfl, rfl⟩
  · exact .asMR16 spells_movWPostIncOrPop fun rd rs => spells_movWPreDecOrPush rs rd
  · exact .error _

theorem decode7x_spelled (lo : Nat) (b2 : Byte) : SpelledBy (oneWord 7#4 (BitVec.ofNat 4 lo)) b2 (decode7x lo b2) := by
  unfold decode7x
  split
  iterate 4 exact .asBit fun _ _ => ⟨rfl, rfl⟩
  iterate 4 exact .asBitInv (fun _ _ => ⟨rfl, rfl⟩) fun _ _ => ⟨rfl, rfl⟩
  · exact .error _

theorem decodeShort_spelled (b1 b2 : Byte) : SpelledBy (fun b2 => [joinBytes b1 b2]) b2 (decodeShort b1 b2) := by
  obtain ⟨hi, lo, rfl⟩ := exists_joinNibbles b1
  obtain ⟨n, rfl, hn⟩ := exists_eq_ofNat hi
  obtain ⟨k, rfl, hk⟩ := exists_eq_ofNat lo
  have hn16 : n < 16 := hn ▸ (BitVec.ofNat 4 n).isLt
  have hk16 : k < 16 := hk ▸ (BitVec.ofNat 4 k).isLt
  simp only [decodeShort, hiNibble_joinNibbles, loNibble_joinNibbles, hn, hk]
  interval_cases n
  · exact decode0x_spelled hk16 b2
  · exact decode1x_spelled hk16 b2
  iterate 2 exact .ok ⟨rfl, rfl⟩
  · exact decode4x_spelled hk16 b2
  · exact decode5x_spelled k b2
  · exact decode6x_spelled k b2
  · exact decode7x_spelled k b2
  iterate 8 exact .ok ⟨rfl, rfl⟩

theorem decodeBitReadInd_spelled (rd : Reg16) (b3 b4 : Byte) :
    SpelledBy (fun b4 => [joinBytes 0x7C#8 (joinNibbles (nibbleOf false rd) 0#4), joinBytes b3 b4]) b4
      (decodeBitReadInd rd b3 b4) := by
  obtain ⟨n, rfl, hn⟩ := exists_eq_ofNat b3
  rw [decodeBitReadInd, hn]
  split
  · exact .asBitMReg fun _ => ⟨rfl, rfl⟩
  · exact .asBitM fun _ => ⟨rfl, rfl⟩
  iterate 4 exact .asBitMInv (fun _ => ⟨rfl, rfl⟩) fun _ => ⟨rfl, rfl⟩
  · exact .error _

theorem decodeBitReadAbs_spelled (abs b3 b4 : Byte) :
    SpelledBy (fun b4 => [joinBytes 0x7E#8 abs, joinBytes b3 b4]) b4 (decodeBitReadAbs abs b3 b4) := by
  obtain ⟨n, rfl, hn⟩ := exists_eq_ofNat b3
  rw [decodeBitReadAbs, hn]
  split
  · exact .asBitMReg fun _ => ⟨rfl, rfl⟩
  · exact .asBitM fun _ => ⟨rfl, rfl⟩
  iterate 4 exact .asBitMInv (fun _ => ⟨rfl, rfl⟩) fun _ => ⟨rfl, rfl⟩
  · exact .error _

theorem decodeBitModifyInd_spelled (rd : Reg16) (b3 b4 : Byte) :
    SpelledBy (fun b4 => [joinBytes 0x7D#8 (joinNibbles (nibbleOf false rd) 0#4), joinBytes b3 b4]) b4
      (decodeBitModifyInd rd b3 b4) := by
  obtain ⟨n, rfl, hn⟩ := exists_eq_ofNat b3
  rw [decodeBitModifyInd, hn]
  split
  iterate 3 exact .asBitMReg fun _ => ⟨rfl, rfl⟩
  · exact .asBitMInv (fun _ => ⟨rfl, rfl⟩) fun _ => ⟨rfl, rfl⟩
  iterate 3 exact .asBitM fun _ => ⟨rfl, rfl⟩
  · exact .error _

theorem decodeBitModifyAbs_spelled (abs b3 b4 : Byte) :
    SpelledBy (fun b4 => [joinBytes 0x7F#8 abs, joinBytes b3 b4]) b4 (decodeBitModifyAbs abs b3 b4) := by
  obtain ⟨n, rfl, hn⟩ := exists_eq_ofNat b3
  rw [decodeBitModifyAbs, hn]
  split
  iterate 3 exact .asBitMReg fun _ => ⟨rfl, rfl⟩
  · exact .asBitMInv (fun _ => ⟨rfl, rfl⟩) fun _ => ⟨rfl, rfl⟩
  iterate 3 exact .asBitM fun _ => ⟨rfl, rfl⟩
  · exact .error _

theorem decodeLong_spelled (b1 b2 b3 b4 : Byte) :
    SpelledBy (fun b2 => [joinBytes b1 b2, joinBytes b3 b4]) b2 (decodeLong b1 b2 b3 b4) := by
  obtain ⟨n, rfl, hn⟩ := exists_eq_ofNat b1
  rw [decodeLong, hn]
  split
  iterate 2 exact .fixed ⟨rfl, rfl⟩
  · exact .asSub08 (fun _ => ⟨rfl, rfl⟩) fun _ => ⟨rfl, rfl⟩
  · exact .asSubW08 (fun _ => ⟨rfl, rfl⟩) fun _ => ⟨rfl, rfl⟩
  · exact .asMR8 (fun _ _ => ⟨rfl, rfl⟩) fun _ _ => ⟨rfl, rfl⟩
  · exact .asMR16 (fun _ _ => ⟨rfl, rfl⟩) fun _ _ => ⟨rfl, rfl⟩
  · exact .asSubW fun _ => ⟨rfl, rfl⟩
  · split
    case isTrue h =>
      obtain ⟨rfl, rfl, rfl⟩ := h
      exact .ok ⟨rfl, rfl⟩
    case isFalse => exact .error _
  · exact .withIndByte fun rd => decodeBitReadInd_spelled rd b3 b4
  · exact .withIndByte fun rd => decodeBitModifyInd_spelled rd b3 b4
  · exact decodeBitReadAbs_spelled b2 b3 b4
  · exact decodeBitModifyAbs_spelled b2 b3 b4
  · exact .error _

theorem decoded_map_rest {d : Decoded} {i : Instr} {r rest : List Byte} (h : d.map (·, r) = .ok (i, rest)) : rest = r := by
  cases d with
  | error e => cases h
  | ok j => cases h; rfl

/-- Settles O3: what an arm of the code map decodes to has the words of that arm, so the bytes it was read from. -/
theorem encodeOfDecode : Obligations.EncodeOfDecode := by
  intro b1 b2 b3 b4 i rest h
  cases hlong : isLong b1 with
  | false =>
    rw [decode_short hlong] at h
    obtain ⟨hwf, hwords⟩ := decodeShort_spelled b1 b2 i (decoded_map_ok h)
    exact ⟨hwf, by simp [hwords, storageBytes, decoded_map_rest h]⟩
  | true =>
    rw [decode_long hlong] at h
    obtain ⟨hwf, hwords⟩ := decodeLong_spelled b1 b2 b3 b4 i (decoded_map_ok h)
    exact ⟨hwf, by simp [hwords, storageBytes, decoded_map_rest h]⟩

/-! ### Bytes that are no instruction (R101, R102, D4) -/

theorem decoded_map_error {d : Decoded} {r : List Byte} {e : DecodeError} (h : d.map (·, r) = .error e) : d = .error e := by
  cases d with
  | error e' => cases h; rfl
  | ok j => cases h

theorem decode_short_error {b1 b2 : Byte} {e : DecodeError} (hk : isLong b1 = false) (hd : decodeShort b1 b2 = .error e)
    (rest : List Byte) : decode (b1 :: b2 :: rest) = .error e := by
  rw [decode_short hk, hd]
  rfl

/-- The four bytes at the PC are those of the two words there. -/
theorem codeBytes_eq_storageBytes (s : State) : s.codeBytes = storageBytes [s.mem16 s.pc, s.mem16 (s.pc + 2#16)] := by
  simp [State.codeBytes, storageBytes, State.mem16, evenAddr_add_two, BitVec.add_assoc]

theorem codeWords_readable {s : State} (hm : ∀ k : Nat, k < 4 → IsMemory s (evenAddr s.pc + BitVec.ofNat 16 k)) :
    WordReadable s s.pc ∧ WordReadable s (s.pc + 2#16) := by
  rw [wordReadable_iff, wordReadable_iff, evenAddr_add_two]
  refine ⟨⟨?_, hm 1 (by decide)⟩, hm 2 (by decide), ?_⟩
  · simpa using hm 0 (by decide)
  · simpa [BitVec.add_assoc] using hm 3 (by decide)

theorem fetch_of_decode_error {s : State} {e : DecodeError} (hd : decode s.codeBytes = .error e)
    (hm : ∀ k : Nat, k < 4 → IsMemory s (evenAddr s.pc + BitVec.ofNat 16 k)) : s.fetch = .error .undefinedEncoding := by
  obtain ⟨hw1, hw2⟩ := codeWords_readable hm
  simp only [codeBytes_eq_storageBytes, storageBytes] at hd
  unfold State.fetch
  cases hlong : isLong (hiByte (s.mem16 s.pc)) with
  | false =>
    rw [decode_short hlong] at hd
    simp [readWord_of hw1, hlong, storageBytes, decode_short_error hlong (decoded_map_error hd)]
  | true =>
    simp [readWord_of hw1, readWord_of hw2, hlong, storageBytes, hd]

theorem decode_error_of_decodeShort {b1 : Byte} {e : DecodeError} (hk : isLong b1 = false)
    (hd : ∀ b2, decodeShort b1 b2 = .error e) (rest : List Byte) : ∃ e, decode (b1 :: rest) = .error e := by
  cases rest with
  | nil => exact ⟨.truncated, rfl⟩
  | cons b2 rest => exact ⟨e, decode_short_error hk (hd b2) rest⟩

/-- Settles O5: the fetch reads both words and finds what the decoder says of them. -/
theorem undefinedEncodingRefused : Obligations.UndefinedEncodingRefused := by
  refine ⟨fun s e hexec hd hm => ?_, ?_⟩
  · have hfetch : s.consumeTick.fetch = .error .undefinedEncoding := fetch_of_decode_error (s := s.consumeTick) hd hm
    simp only [step, phase_of_executes hexec, State.fetchPhase, hfetch]
  · simp only [List.forall_mem_cons]
    refine ⟨?_, ?_, ?_, ?_, ?_, ?_, ?_, ?_, ?_, ?_, nofun⟩
    iterate 10 exact decode_error_of_decodeShort rfl fun _ => rfl

end Sys2Proof.Machine
end

section
/-! SUPPORT. Which CCR bits an instruction may change, shape by shape (spec/30_encoding.md R108, spec/10_state.md R37, R38, R43). -/

namespace Sys2Proof.Machine

/-! ### What a CCR update leaves -/

/-- Every bit of `d` that `written` does not list is that of `c`. -/
def CcrKeeps (c d : Byte) (written : List Flag) : Prop := ∀ f : Flag, f ∉ written → getFlag d f = getFlag c f

theorem ccrKeeps_putHNZVC {w : Nat} (c : Byte) (a : AluResult w) : CcrKeeps c (putHNZVC c a) [.h, .n, .z, .v, .c] := by
  intro f hf
  cases f <;> simp_all [getFlag_putHNZVC]

theorem ccrKeeps_putHNZVCStickyZ {w : Nat} (c : Byte) (a : AluResult w) :
    CcrKeeps c (putHNZVCStickyZ c a) [.h, .n, .z, .v, .c] :=
  ccrKeeps_putHNZVC c _

theorem ccrKeeps_putNZV {w : Nat} (c : Byte) (r : BitVec w) (v : Bool) : CcrKeeps c (putNZV c r v) [.n, .z, .v] :=
  (flagsDiffer_putNZV c r v).2

theorem ccrKeeps_putNZVC (c r : Byte) (v k : Bool) : CcrKeeps c (putNZVC c r v k) [.n, .z, .v, .c] := by
  intro f hf
  cases f <;> simp_all [getFlag_putNZVC]

theorem ccrKeeps_freeFlags (c : Byte) (free : List Flag) (d : Nat) : CcrKeeps c (freeFlags c free d) free := by
  intro f hf
  rw [getFlag_freeFlags, if_neg hf]

theorem ccrKeeps_putFlag (c : Byte) (f : Flag) (v : Bool) : CcrKeeps c (putFlag c f v) [f] :=
  (flagsDiffer_putFlag c (f, v)).2

theorem ccrKeeps_putNZ {w : Nat} (c : Byte) (r : BitVec w) : CcrKeeps c (putNZ c r) [.n, .z] := by
  intro f hf
  cases f <;> simp_all [getFlag_putNZ]

theorem CcrKeeps.trans {c d e : Byte} {fs gs hs : List Flag} (h : CcrKeeps c d fs) (k : CcrKeeps d e gs)
    (hfs : fs ⊆ hs) (hgs : gs ⊆ hs) : CcrKeeps c e hs :=
  fun f hf => (k f fun hg => hf (hgs hg)).trans (h f fun hg => hf (hfs hg))

/-! ### Instructions without a memory access -/

theorem KeepsFlags.of_ccr_eq {s t : State} {fs : List Flag} (h : t.ccr = s.ccr) : KeepsFlags s t fs :=
  fun f _ => congrArg (getFlag · f) h

theorem KeepsFlags.of_next {s u t : State} {fs : List Flag} (h : (Host.Outcome.next u : StepOutcome) = .next t)
    (hu : CcrKeeps s.ccr u.ccr fs) : KeepsFlags s t fs := by
  cases h
  exact hu

theorem ccr_of_next {s u t : State} (h : (Host.Outcome.next u : StepOutcome) = .next t) (hu : u.ccr = s.ccr) :
    t.ccr = s.ccr := by
  cases h
  exact hu

theorem keepsFlags_of_addExtended {s t : State} {rd : Reg8} {src : Byte} (h : addExtended s rd src = .next t) :
    KeepsFlags s t [.h, .n, .z, .v, .c] := by
  refine .of_next h ?_
  rw [State.putByteResult, State.advance_ccr, State.setCcr_ccr]
  split
  · exact ccrKeeps_putHNZVCStickyZ _ _
  · exact ccrKeeps_putHNZVC _ _

/-- DAA and DAS write N and Z and leave H and V free; outside their tables what `free` lists is free too. A carry that is the one
before is no write: DAS has no other. -/
theorem keepsFlags_of_decimalAdjust {s t : State} {rd : Reg8} {table : List AdjustRow} {carry : AdjustRow → Bool}
    {free written : List Flag} (h : decimalAdjust s rd table carry free = .next t) (hwritten : [.h, .n, .z, .v] ⊆ written)
    (hfree : free ⊆ written) (hcarry : .c ∉ written → ∀ row, carry row = s.flag .c) : KeepsFlags s t written := by
  unfold decimalAdjust at h
  dsimp only at h
  split at h
  case h_1 row _ =>
    refine .of_next h fun f hf => ?_
    have hf' : f ∉ [.h, .n, .z, .v] := fun hmem => hf (hwritten hmem)
    simp only [State.drawn_ccr, State.putByteResult, State.advance_ccr, State.setCcr_ccr, getFlag_freeFlags, getFlag_putFlag]
    rw [if_neg (by simp_all)]
    split
    case isTrue hfc =>
      subst hfc
      exact hcarry hf row
    case isFalse => exact ccrKeeps_putNZ _ _ f (by simp_all)
  case h_2 => exact .of_next h fun f hf => ccrKeeps_freeFlags _ _ _ f fun hmem => hf (hfree hmem)

theorem keepsFlags_of_daa {s t : State} {rd : Reg8} (h : execDaa rd s = .next t) : KeepsFlags s t [.h, .n, .z, .v, .c] :=
  keepsFlags_of_decimalAdjust h (by decide) (by decide) fun hc => absurd (by decide) hc

theorem keepsFlags_of_das {s t : State} {rd : Reg8} (h : execDas rd s = .next t) : KeepsFlags s t [.h, .n, .z, .v] :=
  keepsFlags_of_decimalAdjust h (by decide) (by decide) fun _ _ => rfl

theorem keepsFlags_of_divxu {s t : State} {rs : Reg8} {rd : Reg16} (h : execDivxu rs rd s = .next t) :
    KeepsFlags s t [.n, .z] := by
  unfold execDivxu at h
  dsimp only at h
  split at h
  · exact .of_next h ((ccrKeeps_putFlag _ _ _).trans (ccrKeeps_freeFlags _ _ _) (by simp) (by simp))
  · split at h
    · exact .of_next h (ccrKeeps_freeFlags _ _ _)
    · exact .of_next h ((ccrKeeps_putFlag _ _ _).trans (ccrKeeps_putFlag _ _ _) (by simp) (by simp))

/-! ### Bit tests -/

theorem BitTest.ccrAfter_keeps {op : BitTest} {f : Flag} (hop : ∀ c bit, (op.flagAfter c bit).1 = f) (ccr : Byte) (bit : Bool) :
    CcrKeeps ccr (op.ccrAfter ccr bit) [f] := by
  rw [BitTest.ccrAfter_eq_putFlag, hop]
  exact ccrKeeps_putFlag _ _ _

theorem keepsFlags_of_testReg {s t : State} {op : BitTest} {rd : Reg8} {n : Imm3} {f : Flag} (h : testReg s op rd n = .next t)
    (hop : ∀ c bit, (op.flagAfter c bit).1 = f) : KeepsFlags s t [f] :=
  .of_next h (BitTest.ccrAfter_keeps hop _ _)

theorem keepsFlags_of_testMem {s t : State} {op : BitTest} {ea : Addr} {n : Imm3} {f : Flag} (h : testMem s op ea n = .next t)
    (hop : ∀ c bit, (op.flagAfter c bit).1 = f) : KeepsFlags s t [f] := by
  obtain ⟨-, rfl⟩ := testMem_next_iff.mp h
  exact BitTest.ccrAfter_keeps hop _ _

theorem ccr_of_modifyMem {s t : State} {ea : Addr} {f : Byte → Byte} (h : modifyMem s ea f = .next t) : t.ccr = s.ccr := by
  obtain ⟨-, -, rfl⟩ := modifyMem_next_iff.mp h
  simp

/-! ### Moves -/

theorem keepsFlags_movFlags {s u : State} {w : Nat} (hu : u.ccr = s.ccr) (v : BitVec w) (len : Addr) :
    KeepsFlags s ((u.movFlags v).advance len) [.n, .z, .v] :=
  fun f hf => (ccrKeeps_putNZV u.ccr v false f hf).trans (congrArg (getFlag · f) hu)

theorem postIncByte_ccr (s : State) (rs : Reg16) (rd : Reg8) (v : Byte) : (s.postIncByte rs rd v).ccr = s.ccr := by
  unfold State.postIncByte
  split
  · rfl
  · rfl

theorem postIncWord_ccr (s : State) (rs rd : Reg16) (v : Word) : (s.postIncWord rs rd v).ccr = s.ccr := by
  unfold State.postIncWord
  split
  · rfl
  · rfl

theorem keepsFlags_of_loadByte {s t : State} {ea len : Addr} {rd : Reg8} (h : loadByte s ea rd len = .next t) :
    KeepsFlags s t [.n, .z, .v] := by
  obtain ⟨-, rfl⟩ := loadByte_next_iff.mp h
  exact keepsFlags_movFlags (u := (s.afterRead ea).setR8 rd (s.byteAt ea)) (afterRead_ccr s ea) _ len

theorem keepsFlags_of_loadWord {s t : State} {ea len : Addr} {rd : Reg16} (h : loadWord s ea rd len = .next t) :
    KeepsFlags s t [.n, .z, .v] := by
  obtain ⟨-, rfl⟩ := loadWord_next_iff.mp h
  exact keepsFlags_movFlags rfl _ _

theorem keepsFlags_of_moveByteTo {s t : State} {ea len : Addr} {v : Byte} (h : moveByteTo s ea v len = .next t) :
    KeepsFlags s t [.n, .z, .v] := by
  obtain ⟨-, -, rfl⟩ := moveByteTo_next_iff.mp h
  exact keepsFlags_movFlags (afterWrite_ccr s ea v) _ _

theorem keepsFlags_of_moveWordTo {s t : State} {ea len : Addr} {v : Word} (h : moveWordTo s ea v len = .next t) :
    KeepsFlags s t [.n, .z, .v] := by
  obtain ⟨-, rfl⟩ := moveWordTo_next_iff.mp h
  exact keepsFlags_movFlags rfl _ _

theorem keepsFlags_of_movBPostInc {s t : State} {rs : Reg16} {rd : Reg8} (h : execMovBPostInc rs rd s = .next t) :
    KeepsFlags s t [.n, .z, .v] := by
  obtain ⟨-, rfl⟩ := execMovBPostInc_next_iff.mp h
  exact keepsFlags_movFlags ((postIncByte_ccr _ _ _ _).trans (afterRead_ccr _ _)) _ _

theorem keepsFlags_of_popInto {s t : State} {rs rd : Reg16} (h : popInto s rs rd = .next t) : KeepsFlags s t [.n, .z, .v] := by
  obtain ⟨-, rfl⟩ := popInto_next_iff.mp h
  exact keepsFlags_movFlags (postIncWord_ccr _ _ _ _) _ _

theorem keepsFlags_of_movBPreDec {s t : State} {rs : Reg8} {rd : Reg16} (h : execMovBPreDec rs rd s = .next t) :
    KeepsFlags s t [.n, .z, .v] :=
  keepsFlags_of_moveByteTo (s := s.setR16 rd (s.r16 rd - 1#16)) h

theorem keepsFlags_of_pushFrom {s t : State} {rs rd : Reg16} (h : pushFrom s rs rd = .next t) : KeepsFlags s t [.n, .z, .v] :=
  keepsFlags_of_moveWordTo (s := s.setR16 rd (s.r16 rd - 2#16)) h

/-! ### Control transfers -/

theorem ccr_of_branchOn {s t : State} {k : Cond} {disp : Byte} (h : branchOn k disp s = .next t) : t.ccr = s.ccr := by
  unfold branchOn at h
  split at h
  · exact ccr_of_next h rfl
  · exact ccr_of_next h rfl

theorem ccr_of_callTo {s t : State} {target len : Addr} (h : callTo s target len = .next t) : t.ccr = s.ccr := by
  obtain ⟨-, rfl⟩ := callTo_next_iff.mp h
  rfl

theorem ccr_of_jmpMem {s t : State} {abs : Byte} (h : execJmpMem abs s = .next t) : t.ccr = s.ccr := by
  obtain ⟨-, rfl⟩ := execJmpMem_next_iff.mp h
  rfl

theorem ccr_of_rts {s t : State} (h : execRts s = .next t) : t.ccr = s.ccr := by
  obtain ⟨-, rfl⟩ := execRts_next_iff.mp h
  rfl

/-! ### All instructions -/

/-- LDC, ANDC, ORC, XORC and RTE may change every bit (spec/10_state.md R43). -/
theorem keepsFlags_all (s t : State) : KeepsFlags s t [.i, .u6, .h, .u4, .n, .z, .v, .c] := by
  intro f hf
  cases f <;> simp at hf

/-- Settles O53: each shape of instruction writes the flags of its row of the summary. -/
theorem flagSummary : Obligations.FlagSummary := by
  intro i s t h
  cases i
  case ldcReg | orc | xorc | andc | ldcImm | rte => exact keepsFlags_all s t
  case nop | sleep | stc | adds1 | adds2 | subs1 | subs2 | mulxu | jmpInd | jmpAbs | bsetRegReg | bnotRegReg | bclrRegReg
      | bstImmReg | bistImmReg | bsetImmReg | bnotImmReg | bclrImmReg =>
    exact .of_ccr_eq (ccr_of_next h rfl)
  case addBReg | addW | neg | subB | subW | cmpBReg | cmpW | addBImm | cmpBImm => exact .of_next h (ccrKeeps_putHNZVC _ _)
  case addxReg | addxImm => exact keepsFlags_of_addExtended h
  case subxReg | subxImm => exact .of_next h (ccrKeeps_putHNZVCStickyZ _ _)
  case daa => exact keepsFlags_of_daa h
  case das => exact keepsFlags_of_das h
  case divxu => exact keepsFlags_of_divxu h
  case inc | dec | movBReg | movWReg | movBImm | movWImm | orReg | xorReg | andReg | notReg | orImm | xorImm | andImm =>
    exact .of_next h (ccrKeeps_putNZV _ _ _)
  case shll | shal | shlr | shar | rotxl | rotl | rotxr | rotr => exact .of_next h (ccrKeeps_putNZVC _ _ _ _)
  case btstRegReg | btstImmReg | borImmReg | biorImmReg | bxorImmReg | bixorImmReg | bandImmReg | biandImmReg | bldImmReg
      | bildImmReg =>
    exact keepsFlags_of_testReg h fun _ _ => rfl
  case btstImmInd | btstImmAbs | borImmInd | borImmAbs | biorImmInd | biorImmAbs | bxorImmInd | bxorImmAbs | bixorImmInd
      | bixorImmAbs | bandImmInd | bandImmAbs | biandImmInd | biandImmAbs | bldImmInd | bldImmAbs | bildImmInd | bildImmAbs
      | btstRegInd | btstRegAbs =>
    exact keepsFlags_of_testMem h fun _ _ => rfl
  case bstImmInd | bstImmAbs | bistImmInd | bistImmAbs | bsetImmInd | bsetImmAbs | bnotImmInd | bnotImmAbs | bclrImmInd
      | bclrImmAbs | bsetRegInd | bsetRegAbs | bnotRegInd | bnotRegAbs | bclrRegInd | bclrRegAbs =>
    exact .of_ccr_eq (ccr_of_modifyMem h)
  case movBLoadAbs8 | movBLoadInd | movBLoadAbs16 | movBLoadDisp => exact keepsFlags_of_loadByte h
  case movWLoadInd | movWLoadAbs16 | movWLoadDisp => exact keepsFlags_of_loadWord h
  case movBStoreAbs8 | movBStoreInd | movBStoreAbs16 | movBStoreDisp => exact keepsFlags_of_moveByteTo h
  case movWStoreInd | movWStoreAbs16 | movWStoreDisp => exact keepsFlags_of_moveWordTo h
  case movBPostInc => exact keepsFlags_of_movBPostInc h
  case movBPreDec => exact keepsFlags_of_movBPreDec h
  case movWPostInc | pop => exact keepsFlags_of_popInto h
  case movWPreDec | push => exact keepsFlags_of_pushFrom h
  case eepmov => exact .of_ccr_eq (moved_of_eepmov h).ccr
  case bra => exact .of_ccr_eq (ccr_of_branchOn (k := .always) h)
  case brn disp => exact .of_ccr_eq (ccr_of_branchOn (k := .never) (disp := disp) h)
  case bhi | bls | bcc | bcs | bne | beq | bvc | bvs | bpl | bmi | bge | blt | bgt | ble =>
    exact .of_ccr_eq (ccr_of_branchOn h)
  case bsr | jsrInd | jsrAbs => exact .of_ccr_eq (ccr_of_callTo h)
  case jmpMem => exact .of_ccr_eq (ccr_of_jmpMem h)
  case jsrMem => exact .of_ccr_eq (ccr_of_callTo (execJsrMem_next_iff.mp h).2)
  case rts => exact .of_ccr_eq (ccr_of_rts h)

end Sys2Proof.Machine
end

section
/-! SUPPORT. What MOV, POP and PUSH do to the registers, to on-chip memory and to the flags (spec/40_data_transfer.md R120 to
R145). -/

namespace Sys2Proof.Machine

/-! ### MOV between registers and of immediate data (R121, R122, R123, R129) -/

theorem differs_moveToByte (s : State) (rd : Reg8) (v : Byte) (len : Addr) :
    Differs s (s.moveToByte rd v len) (s.pc + len) [(rd, v)] (valueFlags v) [] :=
  .intro rfl (regsDiffer_setR8 rfl) (flagsDiffer_value _ _) (bytesDiffer_of_eq rfl) rfl rfl rfl

theorem differs_moveToWord (s : State) (rd : Reg16) (v : Word) (len : Addr) :
    Differs s (s.moveToWord rd v len) (s.pc + len) (wordReg rd v) (valueFlags v) [] :=
  .intro rfl (regsDiffer_setR16 rfl) (flagsDiffer_value _ _) (bytesDiffer_of_eq rfl) rfl rfl rfl

/-- Settles O6: each form is one register write of its value, and its encoding is the row of the page. -/
theorem moveRegisterAndImmediate : Obligations.MoveRegisterAndImmediate := by
  refine ⟨fun s rs rd => ?_, fun s rs rd => ?_, fun s imm rd => ?_, fun s imm rd => ?_,
    fun _ _ => rfl, fun _ _ => rfl, fun _ _ => rfl, fun _ _ => rfl⟩
  · exact ⟨_, rfl, differs_moveToByte s rd (s.r8 rs) 2#16⟩
  · exact ⟨_, rfl, differs_moveToWord s rd (s.r16 rs) 2#16⟩
  · exact ⟨_, rfl, differs_moveToByte s rd imm 2#16⟩
  · exact ⟨_, rfl, differs_moveToWord s rd imm 4#16⟩

/-! ### Loads (R124, R125, R127, R128, R130, R136, R138) -/

theorem loadByte_memory {s : State} {ea : Addr} (rd : Reg8) (len : Addr) (h : IsMemory s ea) :
    ∃ t, loadByte s ea rd len = .next t ∧ Differs s t (s.pc + len) [(rd, s.mem8 ea)] (valueFlags (s.mem8 ea)) [] :=
  ⟨_, by simp [loadByte, readByte_memory h], differs_moveToByte s rd (s.mem8 ea) len⟩

theorem loadWord_memory {s : State} {ea : Addr} (rd : Reg16) (len : Addr) (h : WordReadable s ea) :
    ∃ t, loadWord s ea rd len = .next t ∧
      Differs s t (s.pc + len) (wordReg rd (s.mem16 ea)) (valueFlags (s.mem16 ea)) [] :=
  ⟨_, loadWord_next_iff.mpr ⟨h, rfl⟩, differs_moveToWord s rd (s.mem16 ea) len⟩

/-- Settles O7: each mode is one byte load at its effective address. -/
theorem byteLoadFromMemory : Obligations.ByteLoadFromMemory := by
  intro s
  refine ⟨fun rs rd h => ?_, fun disp rs rd h => ?_, fun rd abs h => ?_, fun abs rd h => ?_⟩
  · exact loadByte_memory rd 2#16 h
  · exact loadByte_memory rd 4#16 h
  · exact loadByte_memory rd 2#16 h
  · exact loadByte_memory rd 4#16 h

/-- Settles O9: each mode is one word load at its effective address, bit 0 of which the word read disregards. -/
theorem wordLoadFromMemory : Obligations.WordLoadFromMemory := by
  intro s
  refine ⟨fun rs rd h => ?_, fun disp rs rd h => ?_, fun abs rd h => ?_⟩
  · exact loadWord_memory rd 2#16 h
  · exact loadWord_memory rd 4#16 h
  · exact loadWord_memory rd 4#16 h

/-! ### Post-increment loads (R126, R137, R143, R145) -/

/-- A register written and then another one. -/
theorem regsDiffer_setR16_setR16 {s t : State} {n m : Reg16} {v w : Word} (hne : m ≠ n)
    (h : t.regs = ((s.setR16 n v).setR16 m w).regs) : RegsDiffer s t (wordReg m w ++ wordReg n v) := by
  refine (regsDiffer_setR16 (t := s.setR16 n v) rfl).trans (regsDiffer_setR16 h) fun c hn hm => hne ?_
  have hcn : regOf c = n := (mem_halves c n).mp hn
  have hcm : regOf c = m := (mem_halves c m).mp hm
  exact hcm.symm.trans hcn

theorem postIncByte_outside (s : State) {rs : Reg16} {rd : Reg8} (v : Byte) (h : regOf rd ≠ rs) :
    s.postIncByte rs rd v = (s.setR16 rs (s.r16 rs + 1#16)).setR8 rd v := if_neg h

theorem postIncByte_inside (s : State) {rs : Reg16} {rd : Reg8} (v : Byte) (h : regOf rd = rs) :
    s.postIncByte rs rd v = (s.setR16 rs (Config.freeWord s.draws)).drawn := if_pos h

theorem postIncWord_outside (s : State) {rs rd : Reg16} (v : Word) (h : rd ≠ rs) :
    s.postIncWord rs rd v = (s.setR16 rs (s.r16 rs + 2#16)).setR16 rd v := if_neg h

theorem postIncWord_inside (s : State) (rs : Reg16) (v : Word) :
    s.postIncWord rs rs v = (s.setR16 rs (Config.freeWord s.draws)).drawn := if_pos rfl

theorem execMovBPostInc_memory {s : State} {rs : Reg16} (rd : Reg8) (h : IsMemory s (s.r16 rs)) :
    execMovBPostInc rs rd s =
      .next (((s.postIncByte rs rd (s.mem8 (s.r16 rs))).movFlags (s.mem8 (s.r16 rs))).advance 2#16) := by
  simp [execMovBPostInc, readByte_memory h]

theorem movBPostInc_outside {s : State} {rs : Reg16} {rd : Reg8} (hrd : regOf rd ≠ rs) (h : IsMemory s (s.r16 rs)) :
    ∃ t, execMovBPostInc rs rd s = .next t ∧
      Differs s t (s.pc + 2#16) ((rd, s.mem8 (s.r16 rs)) :: wordReg rs (s.r16 rs + 1#16))
        (valueFlags (s.mem8 (s.r16 rs))) [] := by
  refine ⟨_, execMovBPostInc_memory rd h, ?_⟩
  rw [postIncByte_outside _ _ hrd]
  exact .intro rfl (regsDiffer_setR16_setR8 hrd rfl) (flagsDiffer_value _ _) (bytesDiffer_of_eq rfl) rfl rfl rfl

theorem popInto_outside {s : State} {rs rd : Reg16} (hrd : rd ≠ rs) (h : WordReadable s (s.r16 rs)) :
    ∃ t, popInto s rs rd = .next t ∧
      Differs s t (s.pc + 2#16) (wordReg rd (s.mem16 (s.r16 rs)) ++ wordReg rs (s.r16 rs + 2#16))
        (valueFlags (s.mem16 (s.r16 rs))) [] := by
  refine ⟨_, popInto_next_iff.mpr ⟨h, rfl⟩, ?_⟩
  rw [postIncWord_outside _ _ hrd]
  exact .intro rfl (regsDiffer_setR16_setR16 hrd rfl) (flagsDiffer_value _ _) (bytesDiffer_of_eq rfl) rfl rfl rfl

/-- Settles O10: the pointer is written first, then a destination that is no part of it; POP is the word load through R7. -/
theorem postIncrementLoad : Obligations.PostIncrementLoad := by
  intro s
  refine ⟨fun rs rd hrd h => ?_, fun rs rd hrd h => ?_, fun rn hrn h => ?_⟩
  · exact movBPostInc_outside hrd h
  · exact popInto_outside hrd h
  · exact popInto_outside hrn h

/-- A pointer that a load overwrites is one free word (R145); the flags are from the datum all the same. -/
theorem differs_freePointer {w : Nat} (s : State) (rs : Reg16) (v : BitVec w) :
    Differs s ((((s.setR16 rs (Config.freeWord s.draws)).drawn).movFlags v).advance 2#16) (s.pc + 2#16)
      (wordReg rs (Config.freeWord s.draws)) (valueFlags v) [] :=
  .intro rfl (regsDiffer_setR16 rfl) (flagsDiffer_value _ _) (bytesDiffer_of_eq rfl) rfl rfl rfl

theorem movBPostInc_inside {s : State} {rs : Reg16} {rd : Reg8} (hrd : regOf rd = rs) (h : IsMemory s (s.r16 rs)) :
    ∃ (t : State) (v : Word), execMovBPostInc rs rd s = .next t ∧
      Differs s t (s.pc + 2#16) (wordReg rs v) (valueFlags (s.mem8 (s.r16 rs))) [] := by
  refine ⟨_, Config.freeWord s.draws, execMovBPostInc_memory rd h, ?_⟩
  rw [postIncByte_inside _ _ hrd]
  exact differs_freePointer s rs _

theorem popInto_inside {s : State} {rs : Reg16} (h : WordReadable s (s.r16 rs)) :
    ∃ (t : State) (v : Word), popInto s rs rs = .next t ∧
      Differs s t (s.pc + 2#16) (wordReg rs v) (valueFlags (s.mem16 (s.r16 rs))) [] := by
  refine ⟨_, Config.freeWord s.draws, popInto_next_iff.mpr ⟨h, rfl⟩, ?_⟩
  rw [postIncWord_inside]
  exact differs_freePointer s rs _

/-- Settles O11: the free word is drawn for the pointer alone, and POP R7 is the word load of R7 through itself. -/
theorem postIncrementIntoPointer : Obligations.PostIncrementIntoPointer := by
  intro s
  refine ⟨fun rs rd hrd h => ?_, fun rs h => ?_, fun h => ?_⟩
  · exact movBPostInc_inside hrd h
  · exact popInto_inside h
  · exact popInto_inside h

/-! ### Stores (R131, R132, R134, R135, R139, R140, R142) -/

theorem afterWrite_ram {s : State} {a : Addr} (v : Byte) (h : IsRam s a) :
    s.afterWrite a v = { s with mem := Memory.write s.mem a.toNat v } := by
  simp [State.afterWrite, h.isMemory.not_peripheral]

theorem moveByteTo_ram {s : State} {ea len : Addr} (v : Byte) (h : ByteStorable s (s.npc len) ea) :
    ∃ t, moveByteTo s ea v len = .next t ∧ Differs s t (s.pc + len) [] (valueFlags v) [(ea, v)] := by
  obtain ⟨hram, hn⟩ := h
  refine ⟨_, moveByteTo_next_iff.mpr ⟨hn, .inl hram, rfl⟩, ?_⟩
  rw [afterWrite_ram v hram]
  exact .intro rfl (regsDiffer_of_eq rfl) (flagsDiffer_value _ _) (bytesDiffer_write rfl) rfl rfl rfl

theorem moveWordTo_ram {s : State} {ea len : Addr} (v : Word) (h : WordStorable s (s.npc len) ea) :
    ∃ t, moveWordTo s ea v len = .next t ∧ Differs s t (s.pc + len) [] (valueFlags v) (wordCells ea v) :=
  ⟨_, moveWordTo_next_iff.mpr ⟨h, rfl⟩,
    .intro rfl (regsDiffer_of_eq rfl) (flagsDiffer_value _ _) (bytesDiffer_putWord rfl) rfl rfl rfl⟩

/-! ### Pre-decrement stores: the source is read after the pointer is decremented (R133, R141, R144) -/

theorem movBPreDec_ram {s : State} {rs : Reg8} {rd : Reg16} {v : Byte}
    (h : ByteStorable s (s.npc 2#16) (s.r16 rd - 1#16)) (hv : v = (s.setR16 rd (s.r16 rd - 1#16)).r8 rs) :
    ∃ t, execMovBPreDec rs rd s = .next t ∧
      Differs s t (s.pc + 2#16) (wordReg rd (s.r16 rd - 1#16)) (valueFlags v) [(s.r16 rd - 1#16, v)] := by
  subst hv
  unfold execMovBPreDec
  dsimp only
  rw [r16_setR16_same]
  obtain ⟨t, ht, hdiffers⟩ := moveByteTo_ram (s := s.setR16 rd (s.r16 rd - 1#16)) _ h
  exact ⟨t, ht, hdiffers.of_setR16⟩

theorem pushFrom_ram {s : State} {rs rd : Reg16} {v : Word}
    (h : WordStorable s (s.npc 2#16) (s.r16 rd - 2#16)) (hv : v = (s.setR16 rd (s.r16 rd - 2#16)).r16 rs) :
    ∃ t, pushFrom s rs rd = .next t ∧
      Differs s t (s.pc + 2#16) (wordReg rd (s.r16 rd - 2#16)) (valueFlags v) (wordCells (s.r16 rd - 2#16) v) := by
  subst hv
  unfold pushFrom
  dsimp only
  rw [r16_setR16_same]
  obtain ⟨t, ht, hdiffers⟩ := moveWordTo_ram (s := s.setR16 rd (s.r16 rd - 2#16)) _ h
  exact ⟨t, ht, hdiffers.of_setR16⟩

/-- Settles O12: each mode is one byte store at its effective address; @-Rd makes it after the decrement. -/
theorem byteStoreToRam : Obligations.ByteStoreToRam := by
  intro s
  refine ⟨fun rs rd h => ?_, fun rs disp rd h => ?_, fun rs abs h => ?_, fun rs abs h => ?_, fun rs rd v h hv => ?_⟩
  · exact moveByteTo_ram _ h
  · exact moveByteTo_ram _ h
  · exact moveByteTo_ram _ h
  · exact moveByteTo_ram _ h
  · exact movBPreDec_ram h (hv.trans (r8_setR16 _ _ _ _).symm)

/-- Settles O13: each mode is one word store at its effective address; @-Rd, and PUSH through R7, make it after the decrement. -/
theorem wordStoreToRam : Obligations.WordStoreToRam := by
  intro s
  refine ⟨fun rs rd h => ?_, fun rs disp rd h => ?_, fun rs abs h => ?_, fun rs rd v h hv => ?_, fun rn v h hv => ?_⟩
  · exact moveWordTo_ram _ h
  · exact moveWordTo_ram _ h
  · exact moveWordTo_ram _ h
  · exact pushFrom_ram h (hv.trans (r16_setR16 _ _ _ _).symm)
  · exact pushFrom_ram h (hv.trans (r16_setR16 _ _ _ _).symm)

end Sys2Proof.Machine
end

section
/-! SUPPORT. What additions, subtractions and comparisons do to the registers and the five flags (spec/41_arithmetic.md R151 to
R165, spec/00_scope.md R15 to R18). -/

namespace Sys2Proof.Machine

/-! ### V: the sign of a result that does not fit is the wrong one (R15) -/

theorem signedOverflow_iff {w : Nat} {z : Int} :
    signedOverflow w z = true ↔ z < -(2 ^ (w - 1) : Int) ∨ (2 ^ (w - 1) : Int) ≤ z := by
  simp [signedOverflow]

theorem two_pow_eq_two_mul {w : Nat} (hw : 0 < w) : (2 ^ w : Int) = 2 * 2 ^ (w - 1) :=
  (mul_pow_sub_one hw.ne' 2).symm

/-- Of an integer one bit too long at most, the lowest `w` bits show the sign exactly if it fits them. -/
theorem msb_ofInt {w : Nat} (hw : 0 < w) {z : Int} (hlow : -(2 ^ w : Int) ≤ z) (hhigh : z < 2 ^ w) :
    (BitVec.ofInt w z).msb = (decide (z < 0) != signedOverflow w z) := by
  have hsign : z.bmod (2 ^ w) < 0 ↔ _ :=
    Int.bmod_neg_iff (by rw [Nat.cast_pow]; exact hlow) (by rw [Nat.cast_pow]; exact hhigh)
  have hpow := two_pow_eq_two_mul hw
  have hpos : (0 : Int) < 2 ^ (w - 1) := by positivity
  push_cast at hsign
  rw [BitVec.msb_eq_toInt, BitVec.toInt_ofInt, Bool.eq_iff_iff, decide_eq_true_iff, hsign, bne_iff_ne, ne_eq, Bool.eq_iff_iff,
    decide_eq_true_iff, signedOverflow_iff]
  omega

theorem sumOf_eq_ofInt {w : Nat} (x y : BitVec w) (c : Bool) : sumOf x y c = BitVec.ofInt w (x.toInt + y.toInt + c.toNat) := by
  simp [sumOf, BitVec.ofInt_add, BitVec.ofNat_add]

theorem differenceOf_eq_ofInt {w : Nat} (x y : BitVec w) (c : Bool) :
    differenceOf x y c = BitVec.ofInt w (x.toInt - y.toInt - c.toNat) := by
  simp [differenceOf, sub_eq_add_neg, BitVec.ofInt_add, BitVec.ofInt_neg]

theorem differenceOf_no_borrow {w : Nat} (x y : BitVec w) : differenceOf x y false = x - y := by
  simp [differenceOf_eq_ofInt, sub_eq_add_neg, BitVec.ofInt_add, BitVec.ofInt_neg]

/-- A sum overflows exactly if its operands have one sign and the result has the other. -/
theorem sum_overflow {w : Nat} (hw : 0 < w) (x y : BitVec w) (c : Bool) :
    (x.msb == y.msb && (sumOf x y c).msb != x.msb) = signedOverflow w (x.toInt + y.toInt + c.toNat) := by
  have hpow := two_pow_eq_two_mul hw
  have hx := x.le_toInt
  have hx' := x.toInt_lt
  have hy := y.le_toInt
  have hy' := y.toInt_lt
  have hc := c.toNat_le
  have hover := signedOverflow_iff (w := w) (z := x.toInt + y.toInt + c.toNat)
  rw [sumOf_eq_ofInt, msb_ofInt hw (by omega) (by omega), x.msb_eq_toInt, y.msb_eq_toInt]
  grind

/-- A difference overflows exactly if its operands have different signs and the result has not the first one's. -/
theorem difference_overflow {w : Nat} (hw : 0 < w) (x y : BitVec w) (c : Bool) :
    (x.msb != y.msb && (differenceOf x y c).msb != x.msb) = signedOverflow w (x.toInt - y.toInt - c.toNat) := by
  have hpow := two_pow_eq_two_mul hw
  have hx := x.le_toInt
  have hx' := x.toInt_lt
  have hy := y.le_toInt
  have hy' := y.toInt_lt
  have hc := c.toNat_le
  have hover := signedOverflow_iff (w := w) (z := x.toInt - y.toInt - c.toNat)
  rw [differenceOf_eq_ofInt, msb_ofInt hw (by omega) (by omega), x.msb_eq_toInt, y.msb_eq_toInt]
  grind

/-! ### The result and the flags of `addWith` and `subWith` (R16, R17) -/

/-- H, N, V and C of a result; Z is listed beside them, since ADDX and SUBX make another of it. -/
def AluResult.flagsButZ {w : Nat} (a : AluResult w) : List (Flag × Bool) := [(.h, a.h), (.n, a.n), (.v, a.v), (.c, a.c)]

theorem addWith_z {w : Nat} (half : Nat) (x y : BitVec w) (c : Bool) :
    (addWith half x y c).z = decide (sumOf x y c = 0#w) :=
  beq_eq_decide _ _

theorem subWith_z {w : Nat} (half : Nat) (x y : BitVec w) (c : Bool) :
    (subWith half x y c).z = decide (differenceOf x y c = 0#w) :=
  beq_eq_decide _ _

theorem addWith_flagsButZ {w : Nat} (hw : 0 < w) (half : Nat) (x y : BitVec w) (c : Bool) :
    (addWith half x y c).flagsButZ = sumFlags half x y c := by
  have hv : (addWith half x y c).v = signedOverflow w (x.toInt + y.toInt + c.toNat) := sum_overflow hw x y c
  rw [AluResult.flagsButZ, hv]
  rfl

theorem subWith_flagsButZ {w : Nat} (hw : 0 < w) (half : Nat) (x y : BitVec w) (c : Bool) :
    (subWith half x y c).flagsButZ = differenceFlags half x y c := by
  have hv : (subWith half x y c).v = signedOverflow w (x.toInt - y.toInt - c.toNat) := difference_overflow hw x y c
  rw [AluResult.flagsButZ, hv]
  rfl

/-- A comparison finds two values equal. -/
theorem subWith_z_eq_decide_eq {w : Nat} (half : Nat) (x y : BitVec w) : (subWith half x y false).z = decide (x = y) := by
  rw [subWith_z, decide_eq_decide, differenceOf_no_borrow]
  exact sub_eq_zero

/-! ### The shapes of the arithmetic instructions -/

theorem flagsDiffer_putHNZVC {w : Nat} (c : Byte) (a : AluResult w) :
    FlagsDiffer c (putHNZVC c a) ((.z, a.z) :: a.flagsButZ) := by
  constructor
  · simp [AluResult.flagsButZ, getFlag_putHNZVC]
  · intro f hf
    cases f <;> simp_all [AluResult.flagsButZ, getFlag_putHNZVC]

theorem differs_putByteResult {s : State} {rd : Reg8} {r ccr : Byte} {flags : List (Flag × Bool)}
    (h : FlagsDiffer s.ccr ccr flags) : Differs s (s.putByteResult rd r ccr) (s.pc + 2#16) [(rd, r)] flags [] :=
  .intro rfl (regsDiffer_setR8 rfl) h (bytesDiffer_of_eq rfl) rfl rfl rfl

theorem differs_putWordResult {s : State} {rd : Reg16} {r : Word} {ccr : Byte} {flags : List (Flag × Bool)}
    (h : FlagsDiffer s.ccr ccr flags) : Differs s (s.putWordResult rd r ccr) (s.pc + 2#16) (wordReg rd r) flags [] :=
  .intro rfl (regsDiffer_setR16 rfl) h (bytesDiffer_of_eq rfl) rfl rfl rfl

theorem differs_compare {w : Nat} (s : State) (a : AluResult w) :
    Differs s ((s.setCcr (putHNZVC s.ccr a)).advance 2#16) (s.pc + 2#16) [] ((.z, a.z) :: a.flagsButZ) [] :=
  .intro rfl (regsDiffer_of_eq rfl) (flagsDiffer_putHNZVC _ _) (bytesDiffer_of_eq rfl) rfl rfl rfl

/-! ### ADD, SUB and CMP (R151 to R153, R158 to R162) -/

theorem aluByte_add8 (s : State) (rd : Reg8) (x y : Byte) : ∃ t, aluByte s rd (add8 x y false) = .next t ∧
    Differs s t (s.pc + 2#16) [(rd, sumOf x y false)] ((.z, decide (sumOf x y false = 0#8)) :: sumFlags 4 x y false) [] := by
  refine ⟨_, rfl, ?_⟩
  rw [← addWith_z 4, ← addWith_flagsButZ (by decide)]
  exact differs_putByteResult (flagsDiffer_putHNZVC _ _)

theorem aluByte_sub8 (s : State) (rd : Reg8) (x y : Byte) : ∃ t, aluByte s rd (sub8 x y false) = .next t ∧
    Differs s t (s.pc + 2#16) [(rd, differenceOf x y false)]
      ((.z, decide (differenceOf x y false = 0#8)) :: differenceFlags 4 x y false) [] := by
  refine ⟨_, rfl, ?_⟩
  rw [← subWith_z 4, ← subWith_flagsButZ (by decide)]
  exact differs_putByteResult (flagsDiffer_putHNZVC _ _)

theorem compare_subWith {w : Nat} (hw : 0 < w) (s : State) (half : Nat) (x y : BitVec w) :
    ∃ t, compare s (subWith half x y false) = .next t ∧
      Differs s t (s.pc + 2#16) [] ((.z, decide (x = y)) :: differenceFlags half x y false) [] := by
  refine ⟨_, rfl, ?_⟩
  rw [← subWith_z_eq_decide_eq half, ← subWith_flagsButZ hw]
  exact differs_compare _ _

/-- Settles O15: the three forms are `aluByte` of `add8` or `sub8`. -/
theorem addAndSubtractBytes : Obligations.AddAndSubtractBytes := fun s rd =>
  ⟨fun imm => aluByte_add8 s rd (s.r8 rd) imm, fun rs => aluByte_add8 s rd (s.r8 rd) (s.r8 rs),
    fun rs => aluByte_sub8 s rd (s.r8 rd) (s.r8 rs)⟩

/-- Settles O16: as for bytes, at width 16 with the half carry at bit 11. -/
theorem addAndSubtractWords : Obligations.AddAndSubtractWords := by
  intro s rs rd
  refine ⟨⟨_, rfl, ?_⟩, ⟨_, rfl, ?_⟩⟩
  · rw [← addWith_z 12, ← addWith_flagsButZ (by decide)]
    exact differs_putWordResult (flagsDiffer_putHNZVC _ _)
  · rw [← subWith_z 12, ← subWith_flagsButZ (by decide)]
    exact differs_putWordResult (flagsDiffer_putHNZVC _ _)

/-- Settles O17: the three forms are `compare`, which writes the CCR alone. -/
theorem compareSetsFlagsOnly : Obligations.CompareSetsFlagsOnly := fun s =>
  ⟨fun imm rd => compare_subWith (by decide) s 4 (s.r8 rd) imm,
    fun rs rd => compare_subWith (by decide) s 4 (s.r8 rd) (s.r8 rs),
    fun rs rd => compare_subWith (by decide) s 12 (s.r16 rd) (s.r16 rs)⟩

/-! ### ADDX and SUBX (R155, R164) -/

theorem addExtended_differs (s : State) (rd : Reg8) (src : Byte) : ∃ t, addExtended s rd src = .next t ∧
    Differs s t (s.pc + 2#16) [(rd, sumOf (s.r8 rd) src (s.flag .c))]
      ((.z, decide (sumOf (s.r8 rd) src (s.flag .c) = 0#8) && (!s.chip.addxZSticky || s.flag .z)) ::
        sumFlags 4 (s.r8 rd) src (s.flag .c)) [] := by
  refine ⟨_, rfl, ?_⟩
  rw [← addWith_z 4, ← addWith_flagsButZ (by decide)]
  apply differs_putByteResult
  cases s.chip.addxZSticky with
  | false => simpa [add8] using flagsDiffer_putHNZVC s.ccr (addWith 4 (s.r8 rd) src (s.flag .c))
  | true => exact flagsDiffer_putHNZVC _ _

theorem subExtended_differs (s : State) (rd : Reg8) (src : Byte) : ∃ t, subExtended s rd src = .next t ∧
    Differs s t (s.pc + 2#16) [(rd, differenceOf (s.r8 rd) src (s.flag .c))]
      ((.z, decide (differenceOf (s.r8 rd) src (s.flag .c) = 0#8) && s.flag .z) ::
        differenceFlags 4 (s.r8 rd) src (s.flag .c)) [] := by
  refine ⟨_, rfl, ?_⟩
  rw [← subWith_z 4, ← subWith_flagsButZ (by decide)]
  exact differs_putByteResult (flagsDiffer_putHNZVC _ _)

/-- Settles O18: the immediate and the register forms differ in the second operand only. -/
theorem extendedAddAndSubtract : Obligations.ExtendedAddAndSubtract := fun s rd =>
  ⟨fun imm => addExtended_differs s rd imm, fun rs => addExtended_differs s rd (s.r8 rs),
    fun imm => subExtended_differs s rd imm, fun rs => subExtended_differs s rd (s.r8 rs)⟩

/-! ### INC, DEC, ADDS, SUBS and NEG (R154, R156, R157, R163, R165) -/

theorem putNZV_differs (s : State) (rd : Reg8) (r : Byte) (v : Bool) :
    Differs s (s.putByteResult rd r (putNZV s.ccr r v)) (s.pc + 2#16) [(rd, r)]
      [(.n, r.msb), (.z, decide (r = 0#8)), (.v, v)] [] :=
  differs_putByteResult (flagsDiffer_putNZV _ _ _)

/-- Settles O19: the result is 0 exactly after H'FF (INC) or H'01 (DEC). -/
theorem incrementAndDecrement : Obligations.IncrementAndDecrement := by
  refine ⟨fun s rd => ⟨_, rfl, ?_⟩, fun s rd => ⟨_, rfl, ?_⟩, fun _ => rfl, fun _ => rfl⟩
  · have hz : s.r8 rd = 0xFF#8 ↔ s.r8 rd + 1#8 = 0#8 := by bv_omega
    simpa only [hz, beq_eq_decide] using putNZV_differs s rd (s.r8 rd + 1#8) (s.r8 rd == 0x7F#8)
  · have hz : s.r8 rd = 0x01#8 ↔ s.r8 rd - 1#8 = 0#8 := by bv_omega
    simpa only [hz, beq_eq_decide] using putNZV_differs s rd (s.r8 rd - 1#8) (s.r8 rd == 0x80#8)

theorem addToPointer_differs (s : State) (rd : Reg16) {k v : Word} (hv : v = s.r16 rd + k) :
    ∃ t, addToPointer s rd k = .next t ∧ Differs s t (s.pc + 2#16) (wordReg rd v) [] [] :=
  ⟨_, rfl, hv ▸ .intro rfl (regsDiffer_setR16 rfl) (flagsDiffer_refl _) (bytesDiffer_of_eq rfl) rfl rfl rfl⟩

/-- Settles O20: each form adds its constant, SUBS the constant's negative. -/
theorem pointerAdjustment : Obligations.PointerAdjustment := by
  refine ⟨fun s rd => ⟨?_, ?_, ?_, ?_⟩, fun _ => rfl, fun _ => rfl, fun _ => rfl, fun _ => rfl⟩
  iterate 2 exact addToPointer_differs s rd (by simp [BitVec.ofNat_add])
  iterate 2 exact addToPointer_differs s rd (by simp [sub_eq_add_neg, BitVec.ofInt_add])

/-- The flags of a negation by the old value: only H'80 has no negative, and only H'00 takes no borrow. -/
theorem differenceFlags_zero (x : Byte) : differenceFlags 4 0#8 x false =
    [(.h, decide (x.toNat % 16 ≠ 0)), (.n, (differenceOf 0#8 x false).msb), (.v, decide (x = 0x80#8)),
      (.c, decide (x ≠ 0x00#8))] := by
  have hoverflow : signedOverflow 8 (-x.toInt) = decide (x = 0x80#8) := by
    have hlow := x.le_toInt
    have hhigh := x.toInt_lt
    have hleast : (0x80#8).toInt = -128 := rfl
    rw [Bool.eq_iff_iff, decide_eq_true_iff, signedOverflow_iff, ← BitVec.toInt_inj, hleast]
    omega
  have hborrow : 0 < x.toNat ↔ x ≠ 0x00#8 := by bv_omega
  simp [differenceFlags, hoverflow, hborrow, Nat.pos_iff_ne_zero]

theorem FlagsDiffer.perm {c d : Byte} {fs gs : List (Flag × Bool)} (h : FlagsDiffer c d fs) (hperm : fs.Perm gs) :
    FlagsDiffer c d gs :=
  ⟨fun p hp => h.1 p (hperm.mem_iff.mpr hp), fun f hf => h.2 f fun hmem => hf ((hperm.map _).mem_iff.mp hmem)⟩

/-- Settles O21: NEG is the subtraction from H'00. -/
theorem negate : Obligations.Negate := by
  refine ⟨fun s rd => ⟨_, rfl, ?_⟩, fun _ => rfl⟩
  have hflags := flagsDiffer_putHNZVC s.ccr (subWith 4 0#8 (s.r8 rd) false)
  rw [subWith_z, subWith_flagsButZ (by decide), differenceFlags_zero] at hflags
  rw [← differenceOf_no_borrow]
  exact differs_putByteResult (hflags.perm (List.perm_middle (l₁ := [_, _])).symm)

end Sys2Proof.Machine
end

section
/-! SUPPORT. Multiplication and division (spec/41_arithmetic.md R172, R173), and flags that are written one after another or left
open. -/

namespace Sys2Proof.Machine

/-! ### Flags written one after another, and flags left open -/

theorem FlagsDiffer.trans {c d e : Byte} {first second : List (Flag × Bool)} (h : FlagsDiffer c d first)
    (k : FlagsDiffer d e second) (hdisj : ∀ f ∈ first.map Prod.fst, f ∉ second.map Prod.fst) :
    FlagsDiffer c e (first ++ second) := by
  obtain ⟨hset, hkeep⟩ := h
  obtain ⟨kset, kkeep⟩ := k
  refine ⟨fun p hp => ?_, fun f hf => ?_⟩
  · rcases List.mem_append.mp hp with hp | hp
    · rw [kkeep p.1 (hdisj p.1 (List.mem_map_of_mem hp)), hset p hp]
    · exact kset p hp
  · rw [List.map_append, List.mem_append, not_or] at hf
    rw [kkeep f hf.2, hkeep f hf.1]

/-- CCR bits of which it is only known that no others differ. -/
theorem CcrKeeps.flagsDiffer {c d : Byte} {written : List Flag} (h : CcrKeeps c d written) :
    FlagsDiffer c d (written.map fun f => (f, getFlag d f)) := by
  refine ⟨by simp, fun f hf => h f ?_⟩
  simpa [Function.comp_def] using hf

/-- That free values were drawn is no difference a statement speaks of. -/
theorem Differs.drawn {s t : State} {pc : Addr} {regs : List (Reg8 × Byte)} {flags : List (Flag × Bool)}
    {bytes : List (Addr × Byte)} (h : Differs s t pc regs flags bytes) : Differs s t.drawn pc regs flags bytes := h

/-! ### MULXU (R172) -/

theorem r8_lower_half (s : State) (rd : Reg16) : s.r8 (nibbleOf true rd) = loByte (s.r16 rd) := by simp [State.r8]

theorem mul_bytes_lt (a b : Byte) : a.toNat * b.toNat < 2 ^ 16 :=
  Nat.mul_lt_mul'' (c := 2 ^ 8) (d := 2 ^ 8) a.isLt b.isLt

/-- Settles O22: the product of two bytes fits a word. -/
theorem multiply : Obligations.Multiply := by
  refine ⟨fun s rs rd => ?_, fun _ _ => rfl⟩
  refine ⟨BitVec.ofNat 16 ((loByte (s.r16 rd)).toNat * (s.r8 rs).toNat), ?_, _, rfl, ?_⟩
  · rw [r8_lower_half, BitVec.toNat_ofNat, Nat.mod_eq_of_lt (mul_bytes_lt _ _)]
  · exact .intro rfl (regsDiffer_setR16 rfl) (flagsDiffer_refl _) (bytesDiffer_of_eq rfl) rfl rfl rfl

/-! ### DIVXU (R173) -/

theorem execDivxu_of_zero {s : State} {rs : Reg8} (rd : Reg16) (hzero : s.r8 rs = 0#8) : execDivxu rs rd s =
    .next ((s.putWordResult rd (Config.freeWord s.draws) (freeFlags (putFlag s.ccr .z true) [.n] s.draws)).drawn) :=
  if_pos hzero

theorem execDivxu_of_overflow {s : State} {rs : Reg8} {rd : Reg16} (hzero : s.r8 rs ≠ 0#8)
    (hover : (s.r8 rs).toNat ≤ (hiByte (s.r16 rd)).toNat) : execDivxu rs rd s =
    .next ((s.putWordResult rd (Config.freeWord s.draws) (freeFlags s.ccr [.n, .z] s.draws)).drawn) :=
  (if_neg hzero).trans (if_pos (decide_eq_true hover))

theorem execDivxu_of_fits {s : State} {rs : Reg8} {rd : Reg16} (hzero : s.r8 rs ≠ 0#8)
    (hfits : (hiByte (s.r16 rd)).toNat < (s.r8 rs).toNat) : execDivxu rs rd s =
    .next (s.putWordResult rd (divResult (s.r16 rd) (s.r8 rs)) (putFlag (putFlag s.ccr .n (s.r8 rs).msb) .z false)) :=
  (if_neg hzero).trans (if_neg (by simpa [divOverflows] using hfits))

/-- The quotient fits a byte if the divisor is greater than the upper byte of the dividend. -/
theorem quotient_lt {n : Word} {d : Byte} (hfits : (hiByte n).toNat < d.toNat) : n.toNat / d.toNat < 2 ^ 8 := by
  rw [hiByte_toNat] at hfits
  exact Nat.div_lt_of_lt_mul (by omega)

/-- The upper and the lower byte of `divResult` satisfy the division identity (R173). -/
theorem divResult_identity {n : Word} {d : Byte} (hfits : (hiByte n).toNat < d.toNat) : ∃ m q : Byte,
    n.toNat = q.toNat * d.toNat + m.toNat ∧ m.toNat < d.toNat ∧ divResult n d = joinBytes m q := by
  have hrem : n.toNat % d.toNat < d.toNat := Nat.mod_lt _ (by omega)
  have hm : (BitVec.ofNat 8 (n.toNat % d.toNat)).toNat = n.toNat % d.toNat := Nat.mod_eq_of_lt (hrem.trans d.isLt)
  have hq : (BitVec.ofNat 8 (n.toNat / d.toNat)).toNat = n.toNat / d.toNat := Nat.mod_eq_of_lt (quotient_lt hfits)
  exact ⟨_, _, by rw [hm, hq, Nat.div_add_mod'], by rwa [hm], rfl⟩

theorem wordReg_joinBytes (rd : Reg16) (hi lo : Byte) :
    wordReg rd (joinBytes hi lo) = [(nibbleOf false rd, hi), (nibbleOf true rd, lo)] := by
  simp [wordReg]

/-- Settles O23: quotient and remainder are the two bytes of the result. -/
theorem divideExactly : Obligations.DivideExactly := by
  intro s rs rd hzero hfits
  obtain ⟨m, q, hidentity, hrem, hresult⟩ := divResult_identity hfits
  refine ⟨m, q, hidentity, hrem, _, execDivxu_of_fits hzero hfits, ?_⟩
  rw [hresult, ← wordReg_joinBytes]
  exact differs_putWordResult ((flagsDiffer_putFlag s.ccr (.n, _)).trans (flagsDiffer_putFlag _ (.z, _)) (by simp))

/-- Settles O24: the free values are drawn for Rd and the flags named alone. -/
theorem divideNotAssured : Obligations.DivideNotAssured := by
  intro s rs rd
  constructor
  · intro hzero
    have hflags := (flagsDiffer_putFlag s.ccr (.z, true)).trans (ccrKeeps_freeFlags _ [.n] s.draws).flagsDiffer (by simp)
    exact ⟨_, _, _, execDivxu_of_zero rd hzero, (differs_putWordResult (hflags.perm (.swap _ _ _))).drawn⟩
  · intro hzero hover
    exact ⟨_, _, _, _, execDivxu_of_overflow hzero hover,
      (differs_putWordResult (ccrKeeps_freeFlags s.ccr [.n, .z] s.draws).flagsDiffer).drawn⟩

end Sys2Proof.Machine
end

section
/-! SUPPORT. Decimal adjust: the tables of DAA and DAS, and what the two instructions do to packed decimal numbers
(spec/41_arithmetic.md R168, R169). -/

namespace Sys2Proof.Machine

/-! ### The tables -/

theorem hiNibble_toNat (b : Byte) : (hiNibble b).toNat = b.toNat / 16 := by
  have := b.isLt
  simp only [hiNibble, BitVec.extractLsb'_toNat, Nat.shiftRight_eq_div_pow]
  omega

theorem loNibble_toNat (b : Byte) : (loNibble b).toNat = b.toNat % 16 := by
  simp [loNibble, BitVec.extractLsb'_toNat]

/-- C, H and the two nibbles of a byte are those of a row. -/
structure AdjustRow.Matches (row : AdjustRow) (c h : Bool) (a : Byte) : Prop where
  carry : row.c = c
  half : row.h = h
  high : row.hiFrom ≤ a.toNat / 16 ∧ a.toNat / 16 ≤ row.hiTo
  low : row.loFrom ≤ a.toNat % 16 ∧ a.toNat % 16 ≤ row.loTo

theorem AdjustRow.fits_iff {row : AdjustRow} {ccr a : Byte} :
    row.fits ccr a = true ↔ row.Matches (getFlag ccr .c) (getFlag ccr .h) a := by
  simp only [AdjustRow.fits, hiNibble_toNat, loNibble_toNat, Bool.and_eq_true, beq_iff_eq, decide_eq_true_iff]
  exact ⟨fun ⟨⟨⟨⟨⟨hc, hh⟩, h1⟩, h2⟩, h3⟩, h4⟩ => ⟨hc, hh, ⟨h1, h2⟩, h3, h4⟩,
    fun ⟨hc, hh, ⟨h1, h2⟩, h3, h4⟩ => ⟨⟨⟨⟨⟨hc, hh⟩, h1⟩, h2⟩, h3⟩, h4⟩⟩

theorem AdjustRow.Matches.fits {row : AdjustRow} {c h : Bool} {a : Byte} {s : State} {rd : Reg8}
    (hmatch : row.Matches c h a) (hc : s.flag .c = c) (hh : s.flag .h = h) (ha : s.r8 rd = a) :
    row.fits s.ccr (s.r8 rd) = true := by
  subst hc hh ha
  exact AdjustRow.fits_iff.mpr hmatch

/-- Two rows that no CCR and byte match both. -/
def AdjustRow.Apart (p q : AdjustRow) : Prop :=
  p.c ≠ q.c ∨ p.h ≠ q.h ∨ p.hiTo < q.hiFrom ∨ q.hiTo < p.hiFrom ∨ p.loTo < q.loFrom ∨ q.loTo < p.loFrom

theorem AdjustRow.Apart.not_both_fit {p q : AdjustRow} {ccr a : Byte} (h : p.Apart q) (hp : p.fits ccr a = true) :
    q.fits ccr a ≠ true := by
  intro hq
  obtain ⟨pc, ph, phigh, plow⟩ := AdjustRow.fits_iff.mp hp
  obtain ⟨qc, qh, qhigh, qlow⟩ := AdjustRow.fits_iff.mp hq
  rcases h with h | h | h
  · exact h (pc.trans qc.symm)
  · exact h (ph.trans qh.symm)
  · omega

/-- The rows of a table do not overlap. -/
def RowsApart (table : List AdjustRow) : Prop := ∀ p ∈ table, ∀ q ∈ table, p = q ∨ p.Apart q

theorem daaTable_apart : RowsApart daaTable := by unfold RowsApart AdjustRow.Apart; decide

theorem dasTable_apart : RowsApart dasTable := by unfold RowsApart AdjustRow.Apart; decide

theorem adjustRow_of_fits {table : List AdjustRow} {row : AdjustRow} {ccr a : Byte} (happart : RowsApart table)
    (hmem : row ∈ table) (hfits : row.fits ccr a = true) : adjustRow table ccr a = some row := by
  obtain ⟨found, hfound⟩ := Option.isSome_iff_exists.mp (List.find?_isSome (p := (·.fits ccr a)).mpr ⟨row, hmem, hfits⟩)
  rcases happart row hmem found (List.mem_of_find?_eq_some hfound) with rfl | h
  · exact hfound
  · exact absurd (List.find?_some hfound) (h.not_both_fit hfits)

/-! ### Inside the tables -/

theorem flagsDiffer_putNZ {w : Nat} (c : Byte) (r : BitVec w) :
    FlagsDiffer c (putNZ c r) [(.n, r.msb), (.z, decide (r = 0#w))] :=
  ⟨by simp [getFlag_putNZ, beq_eq_decide], ccrKeeps_putNZ c r⟩

/-- On a row: the sum, N and Z of it, and the row's C; H and V as they are drawn. -/
theorem decimalAdjust_of_fits {s : State} {rd : Reg8} {table : List AdjustRow} {row : AdjustRow}
    {carry : AdjustRow → Bool} {free : List Flag} (happart : RowsApart table) (hmem : row ∈ table)
    (hfits : row.fits s.ccr (s.r8 rd) = true) {k : Bool} (hk : carry row = k) :
    ∃ h v t, decimalAdjust s rd table carry free = .next t ∧ Differs s t (s.pc + 2#16) [(rd, s.r8 rd + row.add)]
      [(.n, (s.r8 rd + row.add).msb), (.z, decide (s.r8 rd + row.add = 0#8)), (.c, k), (.h, h), (.v, v)] [] := by
  have hnzc := (flagsDiffer_putNZ s.ccr (s.r8 rd + row.add)).trans (flagsDiffer_putFlag _ (.c, k)) (by simp)
  have hflags := hnzc.trans (ccrKeeps_freeFlags _ [.h, .v] s.draws).flagsDiffer (by simp)
  refine ⟨_, _, _, ?_, (differs_putByteResult hflags).drawn⟩
  simp [decimalAdjust, adjustRow_of_fits happart hmem hfits, hk]

/-- A row as the statements write it. -/
def adjustRowOf (row : Bool × Nat × Nat × Bool × Nat × Nat × Byte × Bool) : AdjustRow :=
  match row with
  | (c, hiFrom, hiTo, h, loFrom, loTo, add, cAfter) => ⟨c, hiFrom, hiTo, h, loFrom, loTo, add, cAfter⟩

theorem AdjustCase.fits {s : State} {rd : Reg8} {row : Bool × Nat × Nat × Bool × Nat × Nat × Byte × Bool}
    (h : AdjustCase s rd row) : (adjustRowOf row).fits s.ccr (s.r8 rd) = true := by
  obtain ⟨c, hiFrom, hiTo, hc, loFrom, loTo, add, cAfter⟩ := row
  obtain ⟨hcarry, hhalf, hhiFrom, hhiTo, hloFrom, hloTo⟩ := h
  exact AdjustRow.Matches.fits ⟨rfl, rfl, ⟨hhiFrom, hhiTo⟩, hloFrom, hloTo⟩ hcarry hhalf rfl

/-- DAS leaves C as its row found it. -/
theorem dasTable_cAfter : ∀ row ∈ dasTable, row.cAfter = row.c := by decide

theorem flag_c_of_das_row {s : State} {a : Byte} {row : AdjustRow} (hmem : row ∈ dasTable)
    (hfits : row.fits s.ccr a = true) : s.flag .c = row.cAfter := by
  obtain ⟨hcarry, -⟩ := AdjustRow.fits_iff.mp hfits
  exact hcarry.symm.trans (dasTable_cAfter row hmem).symm

/-- Settles O25: the rows written out are those of the tables. -/
theorem decimalAdjustOnTable : Obligations.DecimalAdjustOnTable := by
  refine ⟨fun row hrow s rd hcase => ?_, fun row hrow s rd hcase => ?_⟩
  · exact decimalAdjust_of_fits daaTable_apart (List.mem_map_of_mem (f := adjustRowOf) hrow) hcase.fits rfl
  · have hmem : adjustRowOf row ∈ dasTable := List.mem_map_of_mem (f := adjustRowOf) hrow
    exact decimalAdjust_of_fits dasTable_apart hmem hcase.fits (flag_c_of_das_row hmem hcase.fits)

/-! ### Outside the tables too -/

theorem decimalAdjust_completes (s : State) (rd : Reg8) (table : List AdjustRow) (carry : AdjustRow → Bool)
    (free : List Flag) : ∃ r ccr, decimalAdjust s rd table carry free = .next (s.putByteResult rd r ccr).drawn := by
  unfold decimalAdjust
  dsimp only
  split
  · exact ⟨_, _, rfl⟩
  · exact ⟨_, _, rfl⟩

/-- Settles O26: on a row and off one, Rd and flags are written, no others than `keepsFlags_of_daa` and `keepsFlags_of_das` name. -/
theorem decimalAdjustCompletes : Obligations.DecimalAdjustCompletes := by
  intro s rd
  constructor
  · obtain ⟨r, ccr, hnext⟩ := decimalAdjust_completes s rd daaTable (·.cAfter) [.n, .z, .c, .h, .v]
    have hkeeps : CcrKeeps s.ccr ccr [.h, .n, .z, .v, .c] := keepsFlags_of_daa hnext
    exact ⟨r, _, _, _, _, _, _, hnext, (differs_putByteResult hkeeps.flagsDiffer).drawn⟩
  · obtain ⟨r, ccr, hnext⟩ := decimalAdjust_completes s rd dasTable (fun _ => s.flag .c) [.n, .z, .h, .v]
    have hkeeps : CcrKeeps s.ccr ccr [.h, .n, .z, .v] := keepsFlags_of_das hnext
    exact ⟨r, _, _, _, _, _, hnext, (differs_putByteResult hkeeps.flagsDiffer).drawn⟩

end Sys2Proof.Machine
end

section
/-! SUPPORT. ADDX with DAA and SUBX with DAS on packed decimal numbers, digit by digit (spec/41_arithmetic.md R155, R164, R168,
R169). -/

namespace Sys2Proof.Machine

/-! ### Values out of a completed instruction -/

theorem Differs.r8_eq {s t : State} {pc : Addr} {regs : List (Reg8 × Byte)} {flags : List (Flag × Bool)}
    {bytes : List (Addr × Byte)} (h : Differs s t pc regs flags bytes) {c : Reg8} {v : Byte} (hmem : (c, v) ∈ regs) :
    t.r8 c = v := by
  obtain ⟨-, hregs, -⟩ := h
  exact hregs _ hmem

theorem Differs.flag_eq {s t : State} {pc : Addr} {regs : List (Reg8 × Byte)} {flags : List (Flag × Bool)}
    {bytes : List (Addr × Byte)} (h : Differs s t pc regs flags bytes) {f : Flag} {v : Bool} (hmem : (f, v) ∈ flags) :
    t.flag f = v := by
  obtain ⟨-, -, hflags, -⟩ := h
  exact hflags _ hmem

/-! ### Addition -/

/-- The sum of the lower digits and the carry. -/
def lowSum (x y : Byte) (c : Bool) : Nat := x.toNat % 16 + y.toNat % 16 + c.toNat

/-- The sum of the upper digits and the decimal carry out of the lower ones. -/
def highSum (x y : Byte) (c : Bool) : Nat := x.toNat / 16 + y.toNat / 16 + lowSum x y c / 10

theorem sumOf_byte_toNat (x y : Byte) (c : Bool) : (sumOf x y c).toNat = (x.toNat + y.toNat + c.toNat) % 256 :=
  BitVec.toNat_ofNat _ _

/-- `row` matches the C, H and sum that ADDX leaves; it adds 6 in each digit that has a decimal carry, and leaves the upper one's. -/
structure AdjustsSum (x y : Byte) (c : Bool) (row : AdjustRow) : Prop extends
    row.Matches (decide (2 ^ 8 ≤ x.toNat + y.toNat + c.toNat))
      (decide (2 ^ 4 ≤ x.toNat % 2 ^ 4 + y.toNat % 2 ^ 4 + c.toNat)) (sumOf x y c) where
  add : row.add.toNat = 0x06 * (lowSum x y c / 10) + 0x60 * (highSum x y c / 10)
  cAfter : row.cAfter.toNat = highSum x y c / 10

/-- Each digit's sum is a digit, or has a decimal carry only, or has a binary carry too: nine cases, the nine rows of DAA. -/
theorem exists_adjustsSum {x y : Byte} (c : Bool) (hx : IsBcd x) (hy : IsBcd y) :
    ∃ row ∈ daaTable, AdjustsSum x y c row := by
  obtain ⟨hxh, hxl⟩ := hx
  obtain ⟨hyh, hyl⟩ := hy
  have hc := c.toNat_le
  have select (k : Fin 9) (h : AdjustsSum x y c daaTable[k]) : ∃ row ∈ daaTable, AdjustsSum x y c row :=
    ⟨_, List.getElem_mem _, h⟩
  have hlow : lowSum x y c = x.toNat % 16 + y.toNat % 16 + c.toNat := rfl
  have hhigh : highSum x y c = x.toNat / 16 + y.toNat / 16 + lowSum x y c / 10 := rfl
  obtain hl | hl | hl : lowSum x y c < 10 ∨ (10 ≤ lowSum x y c ∧ lowSum x y c < 16) ∨ 16 ≤ lowSum x y c := by omega
  all_goals obtain hh | hh | hh : highSum x y c < 10 ∨
    (10 ≤ highSum x y c ∧ x.toNat + y.toNat + c.toNat < 256) ∨ 256 ≤ x.toNat + y.toNat + c.toNat := by omega
  -- the rows by the lower digit, for each by the upper one
  map_tacs [refine select 0 ?_; refine select 3 ?_; refine select 6 ?_; refine select 1 ?_; refine select 4 ?_;
    refine select 7 ?_; refine select 2 ?_; refine select 5 ?_; refine select 8 ?_]
  all_goals refine ⟨⟨?_, ?_, ?_, ?_⟩, ?_, ?_⟩ <;> simp [daaTable, sumOf_byte_toNat] <;> omega

/-- A byte of two decimal digits. -/
theorem bcd_of_digits {b : Byte} {high low : Nat} (hb : b.toNat = 16 * high + low) (hhigh : high < 10) (hlow : low < 10) :
    IsBcd b ∧ bcdValue b = 10 * high + low := by
  unfold IsBcd bcdValue
  omega

/-- The sum of packed BCD numbers is exact once each decimal carry is made up for. -/
theorem bcd_of_adjustsSum {x y : Byte} {c : Bool} {row : AdjustRow} (h : AdjustsSum x y c row) :
    IsBcd (sumOf x y c + row.add) ∧
      100 * row.cAfter.toNat + bcdValue (sumOf x y c + row.add) = bcdValue x + bcdValue y + c.toNat := by
  have hlow : lowSum x y c = x.toNat % 16 + y.toNat % 16 + c.toNat := rfl
  have hhigh : highSum x y c = x.toNat / 16 + y.toNat / 16 + lowSum x y c / 10 := rfl
  have hdigits : x.toNat + y.toNat + c.toNat + row.add.toNat =
      256 * (highSum x y c / 10) + (16 * (highSum x y c % 10) + lowSum x y c % 10) := by
    rw [h.add]
    omega
  have hresult : (sumOf x y c + row.add).toNat = 16 * (highSum x y c % 10) + lowSum x y c % 10 := by
    rw [BitVec.toNat_add, sumOf_byte_toNat, Nat.mod_add_mod, hdigits, Nat.mul_add_mod, Nat.mod_eq_of_lt (by omega)]
  obtain ⟨hbcd, hvalue⟩ := bcd_of_digits hresult (Nat.mod_lt _ (by decide)) (Nat.mod_lt _ (by decide))
  refine ⟨hbcd, ?_⟩
  rw [hvalue, h.cAfter]
  unfold bcdValue
  omega

/-- Settles O27: DAA finds the row of the digits' carries in what ADDX leaves. -/
theorem decimalAdditionIsExact : Obligations.DecimalAdditionIsExact := by
  intro s rd y hx hy
  obtain ⟨row, hmem, hrow⟩ := exists_adjustsSum (s.flag .c) hx hy
  obtain ⟨hbcd, hvalue⟩ := bcd_of_adjustsSum hrow
  obtain ⟨t, hadd, ht⟩ := addExtended_differs s rd y
  have hsum : t.r8 rd = sumOf (s.r8 rd) y (s.flag .c) := ht.r8_eq (by simp)
  have hfits : row.fits t.ccr (t.r8 rd) = true :=
    hrow.fits (ht.flag_eq (by simp [sumFlags])) (ht.flag_eq (by simp [sumFlags])) hsum
  obtain ⟨_, _, u, hadjust, hu⟩ := decimalAdjust_of_fits daaTable_apart hmem hfits rfl
  refine ⟨t, u, hadd, hadjust, ?_⟩
  have hresult : u.r8 rd = sumOf (s.r8 rd) y (s.flag .c) + row.add := hsum ▸ hu.r8_eq (by simp)
  have hcarry : u.flag .c = row.cAfter := hu.flag_eq (by simp)
  rw [hresult, hcarry]
  exact ⟨hbcd, hvalue⟩

/-! ### Subtraction -/

/-- The byte that SUBX leaves, with its borrow paid back. -/
theorem differenceOf_byte_toNat (x y : Byte) (c : Bool) : (differenceOf x y c).toNat + y.toNat + c.toNat =
    x.toNat + 256 * (decide (x.toNat < y.toNat + c.toNat)).toNat := by
  have hx := x.isLt
  have hy := y.isLt
  have hc := c.toNat_le
  rw [differenceOf, BitVec.toNat_ofInt]
  by_cases hborrow : x.toNat < y.toNat + c.toNat
  · simp only [hborrow, decide_true, Bool.toNat_true]
    omega
  · simp only [hborrow, decide_false, Bool.toNat_false]
    omega

/-- `row` matches the C, H and difference that SUBX leaves. -/
def AdjustsDifference (x y : Byte) (c : Bool) (row : AdjustRow) : Prop :=
  row.Matches (decide (x.toNat < y.toNat + c.toNat)) (decide (x.toNat % 2 ^ 4 < y.toNat % 2 ^ 4 + c.toNat))
    (differenceOf x y c)

/-- Each digit borrows or not: four cases, the four rows of DAS. -/
theorem exists_adjustsDifference {x y : Byte} (c : Bool) (hx : IsBcd x) (hy : IsBcd y) :
    ∃ row ∈ dasTable, AdjustsDifference x y c row := by
  obtain ⟨hxh, hxl⟩ := hx
  obtain ⟨hyh, hyl⟩ := hy
  have hc := c.toNat_le
  have select (k : Fin 4) (h : AdjustsDifference x y c dasTable[k]) : ∃ row ∈ dasTable, AdjustsDifference x y c row :=
    ⟨_, List.getElem_mem _, h⟩
  have hdifference := differenceOf_byte_toNat x y c
  by_cases hl : x.toNat % 16 < y.toNat % 16 + c.toNat
  all_goals by_cases hh : x.toNat < y.toNat + c.toNat
  all_goals simp only [hh, decide_true, decide_false, Bool.toNat_true, Bool.toNat_false] at hdifference
  -- the rows by the borrow of the lower digit, for each by that of the upper one
  map_tacs [refine select 3 ?_; refine select 1 ?_; refine select 2 ?_; refine select 0 ?_]
  all_goals constructor <;> simp [dasTable] <;> omega

/-- DAS takes 6 from each digit that has borrowed: 16 came for the 10 that was due. -/
theorem dasTable_add : ∀ row ∈ dasTable, (row.add.toNat + 0x06 * row.h.toNat + 0x60 * row.c.toNat) % 256 = 0 := by decide

/-- The difference of packed BCD numbers is exact once each borrow is made up for. -/
theorem bcd_of_adjustsDifference {x y : Byte} {c : Bool} {row : AdjustRow} (hx : IsBcd x) (hy : IsBcd y)
    (hmem : row ∈ dasTable) (h : AdjustsDifference x y c row) : IsBcd (differenceOf x y c + row.add) ∧
      bcdValue (differenceOf x y c + row.add) + bcdValue y + c.toNat = bcdValue x + 100 * row.c.toNat := by
  obtain ⟨hxh, hxl⟩ := hx
  obtain ⟨hyh, hyl⟩ := hy
  have hadd := dasTable_add row hmem
  have hdifference := differenceOf_byte_toNat x y c
  rw [← h.carry] at hdifference
  have hlow : row.h.toNat = 1 ∧ x.toNat % 16 < y.toNat % 16 + c.toNat ∨
    row.h.toNat = 0 ∧ y.toNat % 16 + c.toNat ≤ x.toNat % 16 := by
    rw [h.half]
    simp
    omega
  have hc := c.toNat_le
  have hresult : (differenceOf x y c + row.add).toNat =
      16 * (x.toNat / 16 + 10 * row.c.toNat - (y.toNat / 16 + row.h.toNat)) +
        (x.toNat % 16 + 10 * row.h.toNat - (y.toNat % 16 + c.toNat)) := by
    rw [BitVec.toNat_add]
    omega
  obtain ⟨hbcd, hvalue⟩ := bcd_of_digits hresult (by omega) (by omega)
  refine ⟨hbcd, ?_⟩
  rw [hvalue]
  unfold bcdValue
  omega

/-- Settles O28: DAS finds the row of the digits' borrows in what SUBX leaves. -/
theorem decimalSubtractionIsExact : Obligations.DecimalSubtractionIsExact := by
  intro s rd y hx hy
  obtain ⟨row, hmem, hrow⟩ := exists_adjustsDifference (s.flag .c) hx hy
  obtain ⟨hbcd, hvalue⟩ := bcd_of_adjustsDifference hx hy hmem hrow
  obtain ⟨t, hsub, ht⟩ := subExtended_differs s rd y
  have hdifference : t.r8 rd = differenceOf (s.r8 rd) y (s.flag .c) := ht.r8_eq (by simp)
  have hfits : row.fits t.ccr (t.r8 rd) = true :=
    hrow.fits (ht.flag_eq (by simp [differenceFlags])) (ht.flag_eq (by simp [differenceFlags])) hdifference
  obtain ⟨_, _, u, hadjust, hu⟩ := decimalAdjust_of_fits dasTable_apart hmem hfits (carry := fun _ => t.flag .c)
    (flag_c_of_das_row hmem hfits)
  refine ⟨t, u, hsub, hadjust, ?_⟩
  have hresult : u.r8 rd = differenceOf (s.r8 rd) y (s.flag .c) + row.add := hdifference ▸ hu.r8_eq (by simp)
  have hcarry : u.flag .c = row.c := (hu.flag_eq (by simp)).trans (dasTable_cAfter row hmem)
  rw [hresult, hcarry]
  exact ⟨hbcd, hvalue⟩

end Sys2Proof.Machine
end

section
/-! SUPPORT. What the logic, shift and rotate instructions do to the register and the flags, bit by bit (spec/42_logic_shift.md
R180 to R192). -/

namespace Sys2Proof.Machine

/-! ### The two shapes (R180) -/

theorem logicByte_differs (s : State) (rd : Reg8) (r : Byte) : ∃ t, logicByte s rd r = .next t ∧
    Differs s t (s.pc + 2#16) [(rd, r)] (valueFlags r) [] :=
  ⟨_, rfl, differs_putByteResult (flagsDiffer_value _ _)⟩

/-- `flagsDiffer_putNZVC` at any V. -/
theorem flagsDiffer_putNZVC_anyV (ccr r : Byte) (v c : Bool) :
    FlagsDiffer ccr (putNZVC ccr r v c) [(.n, r.msb), (.z, decide (r = 0#8)), (.v, v), (.c, c)] :=
  (flagsDiffer_putNZV ccr r v).trans (flagsDiffer_putFlag _ (.c, c)) (by simp)

theorem shiftByte_differs (s : State) (rd : Reg8) (r : Byte) (v c : Bool) : ∃ t, shiftByte s rd r v c = .next t ∧
    Differs s t (s.pc + 2#16) [(rd, r)] [(.n, r.msb), (.z, decide (r = 0#8)), (.v, v), (.c, c)] [] :=
  ⟨_, rfl, differs_putByteResult (flagsDiffer_putNZVC_anyV _ _ _ _)⟩

theorem shiftByte_differs_clearV (s : State) (rd : Reg8) (r : Byte) (c : Bool) : ∃ t, shiftByte s rd r false c = .next t ∧
    Differs s t (s.pc + 2#16) [(rd, r)] ((.c, c) :: valueFlags r) [] :=
  ⟨_, rfl, differs_putByteResult (flagsDiffer_putNZVC _ _ _)⟩

/-! ### Logic operations (R181 to R184) -/

/-- Settles O29: each form is `logicByte` of the bitwise operation of `BitVec`. -/
theorem logicOperations : Obligations.LogicOperations := by
  refine ⟨fun s rd imm rs => ?_, fun _ _ => rfl, fun _ _ => rfl, fun _ _ => rfl, fun _ _ => rfl, fun _ _ => rfl,
    fun _ _ => rfl, fun _ => rfl⟩
  refine ⟨_, _, _, _, _, _, _, fun k hk => ?_, logicByte_differs s rd (s.r8 rd &&& imm),
    logicByte_differs s rd (s.r8 rd &&& s.r8 rs), logicByte_differs s rd (s.r8 rd ||| imm),
    logicByte_differs s rd (s.r8 rd ||| s.r8 rs), logicByte_differs s rd (s.r8 rd ^^^ imm),
    logicByte_differs s rd (s.r8 rd ^^^ s.r8 rs), logicByte_differs s rd (~~~(s.r8 rd))⟩
  simp [hk]

/-! ### One position to the left or to the right -/

theorem getLsbD_shiftIn0 (a : Byte) (b : Bool) {k : Nat} (hk : k < 8) :
    (shiftIn0 a b).getLsbD k = if k = 0 then b else a.getLsbD (k - 1) := by
  have happend : (shiftIn0 a b).getLsbD k =
      if k < 1 then (BitVec.ofBool b).getLsbD k else (a.extractLsb' 0 7).getLsbD (k - 1) := BitVec.getLsbD_append
  rw [happend]
  by_cases h0 : k = 0
  · simp [h0]
  · have hlt : k - 1 < 7 := by omega
    simp [h0, hlt]

theorem getLsbD_shiftIn7 (a : Byte) (b : Bool) {k : Nat} (hk : k < 8) :
    (shiftIn7 a b).getLsbD k = if k = 7 then b else a.getLsbD (k + 1) := by
  have happend : (shiftIn7 a b).getLsbD k =
      if k < 7 then (a.extractLsb' 1 7).getLsbD k else (BitVec.ofBool b).getLsbD (k - 7) := BitVec.getLsbD_append
  rw [happend]
  by_cases h7 : k = 7
  · simp [h7]
  · have hlt : k < 7 := by omega
    simp [h7, hlt, Nat.add_comm]

/-! ### Shifts and rotates that clear V (R186 to R192) -/

theorem shiftByte_shiftIn0_differs (s : State) (rd : Reg8) (b : Bool) : ∃ r : Byte,
    (∀ k : Nat, k < 8 → r.getLsbD k = if k = 0 then b else (s.r8 rd).getLsbD (k - 1)) ∧
    ∃ t, shiftByte s rd (shiftIn0 (s.r8 rd) b) false (bit7 (s.r8 rd)) = .next t ∧
      Differs s t (s.pc + 2#16) [(rd, r)] ((.c, (s.r8 rd).getLsbD 7) :: valueFlags r) [] :=
  ⟨_, fun _ hk => getLsbD_shiftIn0 _ _ hk, shiftByte_differs_clearV _ _ _ _⟩

theorem shiftByte_shiftIn7_differs (s : State) (rd : Reg8) (b : Bool) : ∃ r : Byte,
    (∀ k : Nat, k < 8 → r.getLsbD k = if k = 7 then b else (s.r8 rd).getLsbD (k + 1)) ∧
    ∃ t, shiftByte s rd (shiftIn7 (s.r8 rd) b) false (bit0 (s.r8 rd)) = .next t ∧
      Differs s t (s.pc + 2#16) [(rd, r)] ((.c, (s.r8 rd).getLsbD 0) :: valueFlags r) [] :=
  ⟨_, fun _ hk => getLsbD_shiftIn7 _ _ hk, shiftByte_differs_clearV _ _ _ _⟩

/-- Settles O30: the seven instructions differ in the direction and in the bit shifted in. -/
theorem shiftsAndRotates : Obligations.ShiftsAndRotates := by
  refine ⟨fun s rd => ⟨?shar, ?shll, ?shlr, ?rotl, ?rotr, ?rotxl, ?rotxr⟩, fun _ => rfl, fun _ => rfl, fun _ => rfl,
    fun _ => rfl, fun _ => rfl, fun _ => rfl, fun _ => rfl⟩
  case shar => exact shiftByte_shiftIn7_differs s rd (bit7 (s.r8 rd))
  case shll => exact shiftByte_shiftIn0_differs s rd false
  case shlr => exact shiftByte_shiftIn7_differs s rd false
  case rotl => exact shiftByte_shiftIn0_differs s rd (bit7 (s.r8 rd))
  case rotr => exact shiftByte_shiftIn7_differs s rd (bit0 (s.r8 rd))
  case rotxl => exact shiftByte_shiftIn0_differs s rd (s.flag .c)
  case rotxr => exact shiftByte_shiftIn7_differs s rd (s.flag .c)

/-! ### SHAL (R185) -/

theorem shiftIn0_false (a : Byte) : shiftIn0 a false = BitVec.ofNat 8 (2 * a.toNat) := by
  have hshift : shiftIn0 a false = a <<< 1 := by
    refine BitVec.eq_of_getLsbD_eq fun k hk => ?_
    rw [getLsbD_shiftIn0 a false hk, BitVec.getLsbD_shiftLeft]
    by_cases h0 : k = 0 <;> simp [h0, hk]
  rw [hshift, BitVec.shiftLeft_eq_mul_twoPow, BitVec.ofNat_mul, BitVec.ofNat_toNat, BitVec.setWidth_eq, BitVec.mul_comm]
  rfl

/-- A shift to the left adds the register to itself. -/
theorem shiftIn0_false_eq_sumOf (a : Byte) : shiftIn0 a false = sumOf a a false := by
  rw [shiftIn0_false, sumOf, Bool.toNat_false, Nat.add_zero, Nat.two_mul]

/-- Bits 7 and 6 differ exactly if doubling overflows (D18): bit 6 becomes the sign. -/
theorem bit7_bne_bit6 (a : Byte) : (bit7 a != a.getLsbD 6) = signedOverflow 8 (2 * a.toInt) := by
  have hsign : (sumOf a a false).msb = a.getLsbD 6 := by
    rw [← shiftIn0_false_eq_sumOf]
    exact getLsbD_shiftIn0 a false (by decide)
  have hoverflow := sum_overflow (by decide) a a false
  rw [hsign, beq_self_eq_true, Bool.true_and, Bool.toNat_false, Nat.cast_zero, Int.add_zero, ← Int.two_mul] at hoverflow
  rw [← hoverflow, bne_comm]
  rfl

theorem bit7_eq_decide (a : Byte) : bit7 a = decide (128 ≤ a.toNat) := BitVec.msb_eq_decide a

/-- Settles O31: the shift doubles the register, and V is the overflow of that sum. -/
theorem arithmeticShiftLeft : Obligations.ArithmeticShiftLeft := by
  intro s rd
  rw [← shiftIn0_false, ← bit7_bne_bit6, ← bit7_eq_decide]
  exact shiftByte_differs s rd _ _ _

end Sys2Proof.Machine
end

section
/-! SUPPORT. What the bit instructions do to a register, to a byte of on-chip memory and to the flags (spec/43_bit_manipulation.md
R200 to R214). -/

namespace Sys2Proof.Machine

/-! ### BSET, BCLR, BNOT, BST and BIST (R201 to R203, R213, R214) -/

/-- A read-modify-write instruction on a register: its operation names the one bit that becomes `v`. -/
theorem bitModifyRegister_of {i : Instr} {s : State} {rd : Reg8} {n : Imm3} {v : Bool} {f : Byte → Byte}
    (hexec : exec i s = modifyReg s rd f) (hf : WithBit (s.r8 rd) n v (f (s.r8 rd))) :
    ∃ r : Byte, WithBit (s.r8 rd) n v r ∧ Effect i s (s.pc + 2#16) [(rd, r)] [] [] :=
  ⟨_, hf, _, hexec,
    .intro rfl (regsDiffer_setR8 rfl) (flagsDiffer_refl _) (bytesDiffer_of_eq rfl) rfl rfl rfl⟩

/-- Settles O32: each instruction is a register write of its own change of one bit. -/
theorem bitModifyRegister : Obligations.BitModifyRegister := by
  intro s
  simp only [← bitNumber_eq_ofNat]
  and_intros
  iterate 2 exact fun _ _ => bitModifyRegister_of rfl (withBit_bitSet _ _)
  iterate 2 exact fun _ _ => bitModifyRegister_of rfl (withBit_bitClear _ _)
  iterate 2 exact fun _ _ => bitModifyRegister_of rfl (withBit_bitInvert _ _)
  iterate 2 exact fun _ _ => bitModifyRegister_of rfl (withBit_bitStore _ _ _)

theorem byteAt_memory {s : State} {a : Addr} (h : IsMemory s a) : s.byteAt a = s.mem8 a := by
  simp [State.byteAt, h.not_peripheral, State.mem8]

theorem afterRead_memory {s : State} {a : Addr} (h : IsMemory s a) : s.afterRead a = s := by
  simp [State.afterRead, h.not_peripheral]

/-- A read-modify-write instruction on a byte of RAM: the byte it read goes back with one bit made `v`. -/
theorem bitModifyRam_of {i : Instr} {s : State} {a : Addr} {n : Imm3} {v : Bool} {f : Byte → Byte}
    (hexec : exec i s = modifyMem s a f) (hf : WithBit (s.mem8 a) n v (f (s.mem8 a))) (h : ByteStorable s (s.pc + 4#16) a) :
    ∃ r : Byte, WithBit (s.mem8 a) n v r ∧ Effect i s (s.pc + 4#16) [] [] [(a, r)] := by
  obtain ⟨hram, hn⟩ := h
  refine ⟨_, hf, _, hexec.trans (modifyMem_next_iff.mpr ⟨hn, .inl hram, rfl⟩), ?_⟩
  rw [byteAt_memory hram.isMemory, afterRead_memory hram.isMemory, afterWrite_ram _ hram]
  exact .intro rfl (regsDiffer_of_eq rfl) (flagsDiffer_refl _) (bytesDiffer_write rfl) rfl rfl rfl

/-- Settles O33: each instruction is a read and a store at its effective address with its own change of one bit. -/
theorem bitModifyMemory : Obligations.BitModifyMemory := by
  intro s
  simp only [← bitNumber_eq_ofNat]
  and_intros
  iterate 4 exact fun _ _ => bitModifyRam_of rfl (withBit_bitSet _ _)
  iterate 4 exact fun _ _ => bitModifyRam_of rfl (withBit_bitClear _ _)
  iterate 4 exact fun _ _ => bitModifyRam_of rfl (withBit_bitInvert _ _)
  iterate 4 exact fun _ _ => bitModifyRam_of rfl (withBit_bitStore _ _ _)

/-! ### BTST, BAND, BIAND, BOR, BIOR, BXOR, BIXOR, BLD and BILD (R204 to R212) -/

/-- The CCR of a read-only instruction differs in the one flag it writes. -/
theorem differs_ccrAfter (s : State) (op : BitTest) (bit : Bool) (len : Addr) :
    Differs s ((s.setCcr (op.ccrAfter s.ccr bit)).advance len) (s.pc + len) [] [op.flagAfter (s.flag .c) bit] [] := by
  rw [BitTest.ccrAfter_eq_putFlag]
  exact .intro rfl (regsDiffer_of_eq rfl) (flagsDiffer_putFlag _ _) (bytesDiffer_of_eq rfl) rfl rfl rfl

theorem bitTestRegister_of {i : Instr} {s : State} {rd : Reg8} {n : Imm3} (op : BitTest)
    (hexec : exec i s = testReg s op rd n) :
    Effect i s (s.pc + 2#16) [] [op.flagAfter (s.flag .c) ((s.r8 rd).getLsbD n.toNat)] [] :=
  ⟨_, hexec, differs_ccrAfter s op _ 2#16⟩

/-- Settles O35: each instruction writes its own flag from C and the bit of the register. -/
theorem bitTestRegister : Obligations.BitTestRegister := by
  intro s
  simp only [← bitNumber_toNat]
  and_intros
  iterate 2 exact fun _ _ => bitTestRegister_of .btst rfl
  · exact fun _ _ => bitTestRegister_of .band rfl
  · exact fun _ _ => bitTestRegister_of .biand rfl
  · exact fun _ _ => bitTestRegister_of .bor rfl
  · exact fun _ _ => bitTestRegister_of .bior rfl
  · exact fun _ _ => bitTestRegister_of .bxor rfl
  · exact fun _ _ => bitTestRegister_of .bixor rfl
  · exact fun _ _ => bitTestRegister_of .bld rfl
  · exact fun _ _ => bitTestRegister_of .bild rfl

theorem bitTestMemory_of {i : Instr} {s : State} {a : Addr} {n : Imm3} (op : BitTest)
    (hexec : exec i s = testMem s op a n) (h : IsMemory s a) :
    Effect i s (s.pc + 4#16) [] [op.flagAfter (s.flag .c) ((s.mem8 a).getLsbD n.toNat)] [] := by
  refine ⟨_, hexec.trans (testMem_next_iff.mpr ⟨.inl h, rfl⟩), ?_⟩
  rw [byteAt_memory h, afterRead_memory h]
  exact differs_ccrAfter s op _ 4#16

/-- Settles O36: each instruction writes its own flag from C and the bit of the byte it read. -/
theorem bitTestMemory : Obligations.BitTestMemory := by
  intro s
  simp only [← bitNumber_toNat]
  and_intros
  iterate 4 exact fun _ _ => bitTestMemory_of .btst rfl
  iterate 2 exact fun _ _ => bitTestMemory_of .band rfl
  iterate 2 exact fun _ _ => bitTestMemory_of .biand rfl
  iterate 2 exact fun _ _ => bitTestMemory_of .bor rfl
  iterate 2 exact fun _ _ => bitTestMemory_of .bior rfl
  iterate 2 exact fun _ _ => bitTestMemory_of .bxor rfl
  iterate 2 exact fun _ _ => bitTestMemory_of .bixor rfl
  iterate 2 exact fun _ _ => bitTestMemory_of .bld rfl
  iterate 2 exact fun _ _ => bitTestMemory_of .bild rfl

end Sys2Proof.Machine
end

section
/-! SUPPORT. What branches, jumps, calls and RTS do to the PC, SP and the stack (spec/44_branch.md R251 to R260), and what the
comparing branches find after a CMP (R252). -/

namespace Sys2Proof.Machine

/-! ### Branches (R251, R252) -/

theorem differs_advance (s : State) (len : Addr) : Differs s (s.advance len) (s.pc + len) [] [] [] :=
  .intro rfl (regsDiffer_of_eq rfl) (flagsDiffer_refl _) (bytesDiffer_of_eq rfl) rfl rfl rfl

theorem differs_jump (s : State) (target : Addr) : Differs s (s.jump target) (evenAddr target) [] [] [] :=
  .intro rfl (regsDiffer_of_eq rfl) (flagsDiffer_refl _) (bytesDiffer_of_eq rfl) rfl rfl rfl

/-- A branch whose condition holds exactly if `P` goes to its target if `P`, and on to the next instruction if not. -/
theorem branch_of {i : Instr} {s : State} {disp : Byte} {P : Prop} [Decidable P] (k : Cond)
    (hexec : exec i s = branchOn k disp s) (hk : k.holds s.ccr = true ↔ P) :
    Effect i s (if P then (s.pc + 2#16 + BitVec.ofInt 16 disp.toInt) &&& 0xFFFE#16 else s.pc + 2#16) [] [] [] := by
  by_cases hP : P
  · rw [if_pos hP]
    exact ⟨_, hexec.trans (if_pos (hk.mpr hP)), differs_jump s _⟩
  · rw [if_neg hP]
    exact ⟨_, hexec.trans (if_neg (mt hk.mp hP)), differs_advance s _⟩

/-- N = V, as `¬ (N xor V)`. -/
theorem holds_greaterOrEqual (ccr : Byte) : Cond.greaterOrEqual.holds ccr = !(getFlag ccr .n != getFlag ccr .v) :=
  (Bool.not_not _).symm

/-- Settles O37: each branch is `branchOn` of its condition. -/
theorem conditionalBranches : Obligations.ConditionalBranches := fun _ _ =>
  ⟨branch_of .always rfl .rfl, branch_of .never rfl .rfl, branch_of .high rfl .rfl, branch_of .lowOrSame rfl .rfl,
    branch_of .carryClear rfl .rfl, branch_of .carrySet rfl .rfl, branch_of .notEqual rfl .rfl, branch_of .equal rfl .rfl,
    branch_of .overflowClear rfl .rfl, branch_of .overflowSet rfl .rfl, branch_of .plus rfl .rfl, branch_of .minus rfl .rfl,
    branch_of .greaterOrEqual rfl (by rw [holds_greaterOrEqual]; rfl), branch_of .lessThan rfl .rfl,
    branch_of .greaterThan rfl .rfl, branch_of .lessOrEqual rfl .rfl⟩

/-! ### Branches after a comparison (R252) -/

/-- The flags say how `x` compares with `y`: equal, less unsigned, less signed. -/
structure Compared {w : Nat} (ccr : Byte) (x y : BitVec w) : Prop where
  equal : getFlag ccr .z = decide (x = y)
  below : getFlag ccr .c = decide (x.toNat < y.toNat)
  less : (getFlag ccr .n != getFlag ccr .v) = decide (x.toInt < y.toInt)

/-- N and V differ exactly if the true difference is negative. -/
theorem difference_msb_bne_overflow {w : Nat} (hw : 0 < w) (x y : BitVec w) :
    ((differenceOf x y false).msb != signedOverflow w (x.toInt - y.toInt)) = decide (x.toInt < y.toInt) := by
  have hpow := two_pow_eq_two_mul hw
  have hx := x.le_toInt
  have hx' := x.toInt_lt
  have hy := y.le_toInt
  have hy' := y.toInt_lt
  have hdiff : differenceOf x y false = BitVec.ofInt w (x.toInt - y.toInt) := by simp [differenceOf_eq_ofInt]
  rw [hdiff, msb_ofInt hw (by omega) (by omega), Bool.bne_assoc, bne_self_eq_false, Bool.bne_false, decide_eq_decide]
  exact sub_neg

theorem compared_of_compare {w : Nat} (hw : 0 < w) {s t : State} {half : Nat} {x y : BitVec w}
    (h : compare s (subWith half x y false) = .next t) : Compared t.ccr x y := by
  obtain ⟨u, hu, hdiffers⟩ := compare_subWith hw s half x y
  obtain rfl : u = t := by injection hu.symm.trans h
  have hn : getFlag u.ccr .n = (differenceOf x y false).msb := hdiffers.flag_eq (by simp [differenceFlags])
  have hv : getFlag u.ccr .v = signedOverflow w (x.toInt - y.toInt) := hdiffers.flag_eq (by simp [differenceFlags])
  exact ⟨hdiffers.flag_eq (by simp), hdiffers.flag_eq (by simp [differenceFlags]),
    by rw [hn, hv, difference_msb_bne_overflow hw]⟩

/-- The table of R252: what a condition says of the operands X and Y of the comparison before it. -/
inductive Cond.Says {w : Nat} (x y : BitVec w) : Cond → Prop → Prop
  | high : Says x y .high (y.toNat < x.toNat)
  | lowOrSame : Says x y .lowOrSame (x.toNat ≤ y.toNat)
  | carryClear : Says x y .carryClear (y.toNat ≤ x.toNat)
  | carrySet : Says x y .carrySet (x.toNat < y.toNat)
  | notEqual : Says x y .notEqual (x ≠ y)
  | equal : Says x y .equal (x = y)
  | greaterOrEqual : Says x y .greaterOrEqual (y.toInt ≤ x.toInt)
  | lessThan : Says x y .lessThan (x.toInt < y.toInt)
  | greaterThan : Says x y .greaterThan (y.toInt < x.toInt)
  | lessOrEqual : Says x y .lessOrEqual (x.toInt ≤ y.toInt)

/-- After a comparison, a condition holds exactly if the operands compare as the table says. -/
theorem Compared.holds_iff {w : Nat} {ccr : Byte} {x y : BitVec w} (h : Compared ccr x y) {k : Cond} {P : Prop}
    (hk : k.Says x y P) : k.holds ccr = true ↔ P := by
  have hnat : x.toNat ≤ y.toNat ↔ x = y ∨ x.toNat < y.toNat := by rw [BitVec.toNat_eq]; exact le_iff_eq_or_lt
  have hint : x.toInt ≤ y.toInt ↔ x = y ∨ x.toInt < y.toInt := by rw [← BitVec.toInt_inj]; exact le_iff_eq_or_lt
  obtain ⟨hequal, hbelow, hless⟩ := h
  cases hk with
  | high => rw [← Nat.not_le, hnat]; simp [Cond.holds, hequal, hbelow, and_comm]
  | lowOrSame => rw [hnat]; simp [Cond.holds, hequal, hbelow, or_comm]
  | carryClear => simp [Cond.holds, hbelow]
  | carrySet => simp [Cond.holds, hbelow]
  | notEqual => simp [Cond.holds, hequal]
  | equal => simp [Cond.holds, hequal]
  | greaterOrEqual => simp [holds_greaterOrEqual, hless]
  | lessThan => simp [Cond.holds, hless]
  | greaterThan => rw [← Int.not_le, hint]; simp [Cond.holds, hequal, hless]
  | lessOrEqual => rw [hint]; simp [Cond.holds, hequal, hless]

/-- A comparing branch after a comparison goes to its target exactly if the operands compare as the table says. -/
theorem Compared.branch {w : Nat} {t : State} {x y : BitVec w} (h : Compared t.ccr x y) {i : Instr} {disp : Byte} {k : Cond}
    {P : Prop} [Decidable P] (hk : k.Says x y P) (hexec : exec i t = branchOn k disp t) : ∃ u, exec i t = .next u ∧
      u.pc = if P then (t.pc + 2#16 + BitVec.ofInt 16 disp.toInt) &&& 0xFFFE#16 else t.pc + 2#16 := by
  obtain ⟨u, hu, hpc, -⟩ := branch_of k hexec (h.holds_iff hk)
  exact ⟨u, hu, hpc⟩

/-- Settles O38: at both widths the comparison leaves the flags that the table of R252 reads. -/
theorem compareThenBranch : Obligations.CompareThenBranch := by
  intro s t disp
  refine ⟨fun rs rd h => ?bytes, fun rs rd h => ?words⟩
  case' bytes => have hcmp : Compared t.ccr (s.r8 rd) (s.r8 rs) := compared_of_compare (by decide) h
  case' words => have hcmp : Compared t.ccr (s.r16 rd) (s.r16 rs) := compared_of_compare (by decide) h
  all_goals exact ⟨hcmp.branch .high rfl, hcmp.branch .lowOrSame rfl, hcmp.branch .carryClear rfl, hcmp.branch .carrySet rfl,
    hcmp.branch .notEqual rfl, hcmp.branch .equal rfl, hcmp.branch .greaterOrEqual rfl, hcmp.branch .lessThan rfl,
    hcmp.branch .greaterThan rfl, hcmp.branch .lessOrEqual rfl⟩

/-! ### Jumps and RTS (R254 to R256, R260) -/

/-- Settles O39: each instruction is a jump; RTS makes it after it has moved SP. -/
theorem jumpsAndReturn : Obligations.JumpsAndReturn := by
  intro s
  refine ⟨fun rn => ?_, fun abs => ?_, fun abs h => ?_, fun h => ?_⟩
  · exact ⟨_, rfl, differs_jump s (s.r16 rn)⟩
  · exact ⟨_, rfl, differs_jump s abs⟩
  · exact ⟨_, execJmpMem_next_iff.mpr ⟨h, rfl⟩, differs_jump s _⟩
  · exact ⟨_, execRts_next_iff.mpr ⟨h, rfl⟩, (differs_jump (s.setSp (s.sp + 2#16)) (s.mem16 s.sp)).of_setR16⟩

/-! ### Calls (R253, R257 to R259) -/

/-- A call that can push the address after it moves SP below it and jumps. -/
theorem callTo_storable {s : State} {len : Addr} (target : Addr) (h : WordStorable s (s.npc len) (s.sp - 2#16)) :
    ∃ t, callTo s target len = .next t ∧
      Differs s t (evenAddr target) (wordReg 7#3 (s.sp - 2#16)) [] (wordCells (s.sp - 2#16) (s.npc len)) :=
  ⟨_, callTo_next_iff.mpr ⟨h, rfl⟩,
    .intro rfl (regsDiffer_setR16 rfl) (flagsDiffer_refl _) (bytesDiffer_putWord rfl) rfl rfl rfl⟩

/-- Settles O41: each call is `callTo` of its target, which is found before the push. -/
theorem calls : Obligations.Calls := by
  intro s
  refine ⟨fun disp h => ?_, fun rn h => ?_, fun abs h => ?_, fun abs hread h => ?_⟩
  · exact callTo_storable (branchTarget (s.npc 2#16) disp) h
  · exact callTo_storable (s.r16 rn) h
  · exact callTo_storable abs h
  · obtain ⟨t, ht, hdiffers⟩ := callTo_storable (s.mem16 (eaMemInd abs)) h
    exact ⟨t, execJsrMem_next_iff.mpr ⟨hread, ht⟩, hdiffers⟩

end Sys2Proof.Machine
end

section
/-! SUPPORT. What the system control instructions do to the CCR as a whole, to the operation state and, for RTE, to SP and the PC
(spec/45_system_control.md R271 to R279), and how power-down waits (spec/60_exceptions.md R309, R323). -/

namespace Sys2Proof.Machine

/-! ### The CCR written as a whole (R270, R273 to R278) -/

/-- Every bit of a CCR, from bit 7 down (spec/10_state.md R36). -/
def ccrBits (ccr : Byte) : List (Flag × Bool) := [.i, .u6, .h, .u4, .n, .z, .v, .c].map fun f => (f, getFlag ccr f)

/-- Between any two CCRs there is no difference beyond the eight bits. -/
theorem flagsDiffer_ccrBits (c d : Byte) : FlagsDiffer c d (ccrBits d) := by
  have hkeeps : CcrKeeps c d [.i, .u6, .h, .u4, .n, .z, .v, .c] := by
    intro f hf
    cases f <;> simp at hf
  exact hkeeps.flagsDiffer

theorem writeCcr_differs (s : State) (v : Byte) : ∃ t, writeCcr s v = .next t ∧ t.ccr = v ∧ t.irqInhibit = true ∧
    Differs s t (s.pc + 2#16) [] (ccrBits v) [] :=
  ⟨_, rfl, rfl, rfl, .intro rfl (regsDiffer_of_eq rfl) (flagsDiffer_ccrBits _ _) (bytesDiffer_of_eq rfl) rfl rfl rfl⟩

/-- Settles O42: each of the five is `writeCcr` of its value. -/
theorem ccrWriters : Obligations.CcrWriters := by
  rintro s i v (⟨imm, rfl, rfl⟩ | ⟨rs, rfl, rfl⟩ | ⟨imm, rfl, rfl⟩ | ⟨imm, rfl, rfl⟩ | ⟨imm, rfl, rfl⟩)
  · exact writeCcr_differs s v
  · exact writeCcr_differs s (s.r8 rs)
  · exact writeCcr_differs s (s.ccr &&& imm)
  · exact writeCcr_differs s (s.ccr ||| imm)
  · exact writeCcr_differs s (s.ccr ^^^ imm)

/-! ### STC and NOP (R275, R279) -/

/-- Settles O43: STC writes one register half before the PC moves on; NOP moves the PC alone. -/
theorem storeCcrAndNop : Obligations.StoreCcrAndNop := by
  refine ⟨fun s rd => ⟨_, rfl, ?_⟩, fun s => ⟨_, rfl, differs_advance s 2#16⟩, fun _ => rfl, rfl⟩
  exact .intro rfl (regsDiffer_setR8 rfl) (flagsDiffer_refl _) (bytesDiffer_of_eq rfl) rfl rfl rfl

/-! ### SLEEP and the power-down state (R272, R309, R323) -/

theorem powerDownPhase_waits {s : State} {pending : List Nat} (h : ∀ id ∈ pending, s.admissible id = none) :
    s.powerDownPhase pending = .done (.next s) := by
  simp only [State.powerDownPhase, choose_none_iff.mpr h]

/-- In power-down with no admissible request, a step uses up its tick and does nothing else. -/
theorem step_powerDown_waits {s : State} (hstate : s.cpuState = .powerDown) (hres : s.tick.resLow = false)
    (hnone : ∀ id ∈ s.tick.pending, s.admissible id = none) : step s = .next s.consumeTick := by
  have hphase : phase s = .done (.next s.consumeTick) := by
    rw [phase_of_high hres, hstate]
    exact powerDownPhase_waits hnone
  rw [step, hphase]

theorem admissible_eq_some_iff {s : State} {id : Nat} {src : IrqSource} : s.admissible id = some src ↔
    s.chip.irqSources[id]? = some src ∧ (src.isNmi = true ∨ s.flag .i = false) := by
  unfold State.admissible
  cases s.chip.irqSources[id]? with
  | none => simp
  | some found =>
    simp only [Option.ite_none_right_eq_some, Option.some.injEq, Bool.or_eq_true, Bool.not_eq_true']
    constructor
    · rintro ⟨h, rfl⟩
      exact ⟨rfl, h⟩
    · rintro ⟨rfl, h⟩
      exact ⟨h, rfl⟩

/-- Settles O44: without an admissible request the power-down phase ends the step; with I = 1 only an NMI source is admissible. -/
theorem sleepEntersPowerDown : Obligations.SleepEntersPowerDown := by
  refine ⟨fun s => ⟨_, rfl, rfl, rfl, rfl, rfl, rfl, rfl, rfl⟩, fun s => step_powerDown_waits, fun s id src hmask hsome => ?_, rfl⟩
  obtain ⟨-, hnmi | hopen⟩ := admissible_eq_some_iff.mp hsome
  · exact hnmi
  · rw [hmask] at hopen
    contradiction

/-! ### RTE (R271) -/

theorem setSp_setSp (s : State) (v w : Word) : (s.setSp v).setSp w = s.setSp w := by
  simp [State.setSp, State.setR16]

theorem execRte_next_iff {s t : State} : execRte s = .next t ↔ WordReadable s s.sp ∧ WordReadable s (s.sp + 2#16) ∧
    t = ((s.setSp (s.sp + 4#16)).setCcr (s.mem8 (evenAddr s.sp))).jump (s.mem16 (s.sp + 2#16)) := by
  have hsp : s.sp + 2#16 + 2#16 = s.sp + 4#16 := BitVec.add_assoc _ _ _
  have hccr : hiByte (s.mem16 s.sp) = s.mem8 (evenAddr s.sp) := hiByte_joinBytes _ _
  rw [execRte, finish_next_iff, returnFromException_ok_iff, setSp_setSp, hsp, hccr]

/-- Settles O45: both words are read before anything changes, and the second move of SP makes the first one 4. -/
theorem returnFromException : Obligations.ReturnFromException := by
  intro s hccr hpc
  refine ⟨_, execRte_next_iff.mpr ⟨hccr, hpc, rfl⟩, rfl, ?_⟩
  exact .intro rfl (regsDiffer_setR16 rfl) (flagsDiffer_ccrBits _ _) (bytesDiffer_of_eq rfl) rfl rfl rfl

end Sys2Proof.Machine
end

section
/-! SUPPORT. EEPMOV within on-chip memory (spec/46_block_transfer.md R285, spec/92_eei_decisions.md D23). The blocks may overlap:
once byte 0 is copied, the rest of the transfer is a transfer of the next bytes, from a memory where the byte at the destination is
the first source byte. -/

namespace Sys2Proof.Machine

/-- Byte `j` of the destination in ascending order: the old source byte `j mod d`, `d` the distance from source to destination. -/
def copiedByte (s : State) (src dst : Addr) (j : Nat) : Byte := s.mem8 (src + BitVec.ofNat 16 (j % (dst - src).toNat))

/-- The state once the byte at `src` has been copied to `dst`. -/
def State.copied (s : State) (src dst : Addr) : State := { s with mem := Memory.write s.mem dst.toNat (s.mem8 src) }

theorem add_ofNat_eq_iff {a b : Addr} {m : Nat} (hm : m < 65536) : a + BitVec.ofNat 16 m = b ↔ m = (b - a).toNat := by
  rw [← eq_sub_iff_add_eq', ← BitVec.toNat_inj, BitVec.toNat_ofNat, Nat.mod_eq_of_lt hm]

theorem copiedByte_zero (s : State) (src dst : Addr) : copiedByte s src dst 0 = s.mem8 src := by
  rw [copiedByte, Nat.zero_mod, BitVec.add_zero]

/-- The pattern goes on: after the first byte, what the rest of the transfer copies is what the whole one would. A source byte that
byte 0 has overwritten is the one where `j mod d` wraps to 0. -/
theorem copiedByte_copied (s : State) (src dst : Addr) {j : Nat} (hj : j + 1 < 65536) :
    copiedByte (s.copied src dst) (src + 1#16) (dst + 1#16) j = copiedByte s src dst (j + 1) := by
  have hle : j % (dst - src).toNat ≤ j := Nat.mod_le _ _
  rw [copiedByte, copiedByte, add_sub_add_right_eq_sub, ← add_ofNat_succ, State.copied, mem8_write, ← Nat.mod_add_mod]
  by_cases hwrap : j % (dst - src).toNat + 1 = (dst - src).toNat
  · rw [if_pos ((add_ofNat_eq_iff (by omega)).mpr hwrap), hwrap, Nat.mod_self, BitVec.add_zero]
  · have hstays : (j % (dst - src).toNat + 1) % (dst - src).toNat = j % (dst - src).toNat + 1 := by
      rcases Nat.eq_zero_or_pos (dst - src).toNat with hd | hd
      · rw [hd, Nat.mod_zero]
      · have hlt := Nat.mod_lt j hd
        exact Nat.mod_eq_of_lt (by omega)
    rw [if_neg (mt (add_ofNat_eq_iff (by omega)).mp hwrap), hstays]

/-- On-chip memory to RAM: the destination bytes are the copied ones, and nothing else differs. -/
theorem run_accessTransfer_memory {npc : Addr} (n : Nat) : ∀ {s : State} {src dst : Addr} {k : Nat}, n ≤ 65536 →
    2 * n ≤ k → (∀ j : Nat, j < n → IsMemory s (src + BitVec.ofNat 16 j) ∧ ByteStorable s npc (dst + BitVec.ofNat 16 j)) →
    ∃ t, (accessTransfer npc n src dst).run k s = .ok t ∧ t.env = s.env ∧
      BytesDiffer s t (along Prod.mk dst n (copiedByte s src dst)) := by
  induction n with
  | zero =>
    intro s src dst k _ _ _
    refine ⟨s, ?_, rfl, bytesDiffer_of_eq rfl⟩
    cases k <;> rfl
  | succ n ih =>
    intro s src dst k hn hk hplaces
    obtain ⟨k, rfl⟩ : ∃ m, k = m + 2 := ⟨k - 2, by omega⟩
    obtain ⟨hsrc, hdst⟩ := hplaces 0 (Nat.zero_lt_succ _)
    rw [BitVec.add_zero] at hsrc hdst
    obtain ⟨t, hrun, henv, hbytes⟩ := ih (s := s.copied src dst) (src := src + 1#16) (dst := dst + 1#16) (k := k)
      (by omega) (by omega) fun j hj => by
        rw [← add_ofNat_succ, ← add_ofNat_succ]
        exact hplaces (j + 1) (Nat.succ_lt_succ hj)
    refine ⟨t, ?_, henv, ?_⟩
    · simp only [accessTransfer, BusPlan.run, readByte_memory hsrc, res_ok_bind, storeByte_ram _ hdst]
      exact hrun
    · have hrest : along Prod.mk (dst + 1#16) n (copiedByte (s.copied src dst) (src + 1#16) (dst + 1#16)) =
          along Prod.mk (dst + 1#16) n fun j => copiedByte s src dst (j + 1) :=
        List.map_congr_left fun j hj => by
          have hlt := List.mem_range.mp hj
          rw [copiedByte_copied s src dst (by omega)]
      rw [along_succ, copiedByte_zero, ← hrest]
      exact BytesDiffer.trans (first := [(dst, s.mem8 src)]) (bytesDiffer_write rfl) hbytes
        (List.forall_mem_singleton.mpr (not_mem_along_next dst (by omega) _))

/-- Settles O46: both preliminary reads leave the state alone; each byte copied leaves a shorter transfer of the same pattern. -/
theorem blockTransfer : Obligations.BlockTransfer := by
  intro s n hn hsrc hdst hplaces
  have hcount : n < 256 := hn ▸ (s.r8 12#4).isLt
  obtain ⟨u, hrun, henv, hbytes⟩ := run_accessTransfer_memory (npc := s.npc 4#16) (k := 510) n (by omega) (by omega) hplaces
  obtain ⟨t, ht, htmem, htenv⟩ := eepmov_next_of_transfer hn (readByte_memory hsrc) (readByte_memory hdst) hrun
  exact ⟨t, ht, eepmov_differs ht hn (hbytes.of_mem_eq htmem) (htenv.trans henv)⟩

end Sys2Proof.Machine
end

section
/-! SUPPORT. What a step does when it accepts a request: the frame interrupt entry leaves on the stack, and RTE from it
(spec/60_exceptions.md R309, R310, R312 to R316, R323). -/

namespace Sys2Proof.Machine

theorem getFlag_putFlag_same (ccr : Byte) (f : Flag) (v : Bool) : getFlag (putFlag ccr f v) f = v := by
  rw [getFlag_putFlag, if_pos rfl]

/-! ### The request that is taken (R310, R319) -/

theorem choose_of_isChosen {s : State} {id : Nat} {src : IrqSource} (h : IsChosen s id src) :
    s.choose s.tick.pending = some (id, src) := by
  obtain ⟨before, after, hpending, hsome, hnone⟩ := h
  rw [State.choose, List.findSome?_eq_some_iff]
  exact ⟨before, id, after, hpending, by simp [hsome], fun k hk => by simp [hnone k hk]⟩

theorem IsChosen.admissible {s : State} {id : Nat} {src : IrqSource} (h : IsChosen s id src) : s.admissible id = some src := by
  obtain ⟨_, _, -, hsome, -⟩ := h
  exact hsome

/-- Awake with the latch clear, or asleep, a step accepts the request that is chosen. -/
theorem step_of_isChosen {s : State} {id : Nat} {src : IrqSource} (hres : s.tick.resLow = false)
    (hopen : s.cpuState = .programExecution ∧ s.irqInhibit = false ∨ s.cpuState = .powerDown) (h : IsChosen s id src) :
    step s = finish (s.consumeTick.acceptInterrupt id src) := by
  have hchoose : s.consumeTick.choose s.tick.pending = some (id, src) := choose_of_isChosen h
  have hphase : phase s = .done (finish (s.consumeTick.acceptInterrupt id src)) := by
    rw [phase_of_high hres]
    rcases hopen with ⟨hawake, hlatch⟩ | hasleep
    · simp [hawake, State.programPhase, hlatch, hchoose]
    · simp [hasleep, State.powerDownPhase, hchoose]
  rw [step, hphase]

/-! ### The frame (R312, R313) -/

/-- The two words of interrupt entry pushed: the PC, and below it CCR : CCR. -/
def State.framed (s : State) : State :=
  ((s.setSp (s.sp - 4#16)).putWord (s.sp - 2#16) s.pc).putWord (s.sp - 4#16) (joinBytes s.ccr s.ccr)

/-- The frame pushed, I set, the PC from the vector, the latch clear, program execution state. -/
def State.entered (s : State) (src : IrqSource) : State :=
  { s.framed with
    ccr := putFlag s.ccr .i true
    pc := evenAddr (s.framed.mem16 src.vectorAddr)
    irqInhibit := false
    cpuState := .programExecution }

theorem takeInterrupt_eq_entered_iff {s t : State} {src : IrqSource} : s.takeInterrupt src = .ok t ↔
    WordWritable s (s.sp - 2#16) ∧ WordWritable s (s.sp - 4#16) ∧ WordReadable s src.vectorAddr ∧ t = s.entered src := by
  have hsp : s.sp - 2#16 - 2#16 = s.sp - 4#16 := BitVec.sub_sub _ _ _
  have hframe : (((s.setSp (s.sp - 2#16)).putWord (s.sp - 2#16) s.pc).setSp (s.sp - 4#16)).putWord (s.sp - 4#16)
      (joinBytes s.ccr s.ccr) = s.framed :=
    congrArg (fun u : State => (u.putWord (s.sp - 2#16) s.pc).putWord (s.sp - 4#16) (joinBytes s.ccr s.ccr)) (setSp_setSp s _ _)
  simp only [takeInterrupt_ok_iff, hsp, hframe, exists_eq_left]
  rfl

theorem wordBytes_disjoint_of_add_two (a : Addr) : ∀ b ∈ wordBytes (a + 2#16), b ∉ wordBytes a := by
  simp only [wordBytes, evenAddr_add_two, List.mem_cons, List.not_mem_nil, or_false]
  bv_omega

theorem mem16_of_wordCells {t : State} {a : Addr} {v : Word} (h : ∀ p ∈ wordCells a v, t.mem8 p.1 = p.2) : t.mem16 a = v := by
  simp only [wordCells, List.forall_mem_cons] at h
  obtain ⟨hupper, hlower, -⟩ := h
  rw [State.mem16, hupper, hlower, joinBytes_hi_lo]

theorem framed_bytesDiffer (s : State) : BytesDiffer s s.framed
    (wordCells (s.sp - 2#16) s.pc ++ wordCells (s.sp - 4#16) (joinBytes s.ccr s.ccr)) := by
  have hsp : s.sp - 2#16 = s.sp - 4#16 + 2#16 := by bv_omega
  have hpc : BytesDiffer s ((s.setSp (s.sp - 4#16)).putWord (s.sp - 2#16) s.pc) (wordCells (s.sp - 2#16) s.pc) :=
    bytesDiffer_putWord rfl
  refine hpc.trans (bytesDiffer_putWord rfl) ?_
  rw [hsp]
  exact wordBytes_disjoint_of_add_two _

theorem framed_regsDiffer (s : State) : RegsDiffer s s.framed (wordReg 7#3 (s.sp - 4#16)) := regsDiffer_setR16 rfl

theorem entered_pcWord (s : State) (src : IrqSource) : (s.entered src).mem16 (s.sp - 2#16) = s.pc :=
  mem16_of_wordCells fun p hp => (framed_bytesDiffer s).1 p (List.mem_append_left _ hp)

theorem entered_ccrWord (s : State) (src : IrqSource) : (s.entered src).mem16 (s.sp - 4#16) = joinBytes s.ccr s.ccr :=
  mem16_putWord _ _ _

theorem entered_sp (s : State) (src : IrqSource) : (s.entered src).sp = s.sp - 4#16 := sp_setSp s _

/-- Settles O47: the chosen request is accepted, and the two words of the frame are disjoint. -/
theorem interruptEntry : Obligations.InterruptEntry := by
  intro s id src hres hopen hchosen hpc hccr hvector
  obtain ⟨hsource, hadmissible⟩ := admissible_eq_some_iff.mp hchosen.admissible
  have htake : s.consumeTick.acceptInterrupt id src = .ok ((s.consumeTick.accepted id).entered src) :=
    takeInterrupt_eq_entered_iff.mpr ⟨hpc, hccr, hvector, rfl⟩
  have hstep : step s = .next ((s.consumeTick.accepted id).entered src) := by
    rw [step_of_isChosen hres hopen hchosen, htake, finish_ok]
  refine ⟨hadmissible, hsource, _, hstep, entered_pcWord _ _, entered_ccrWord _ _, entered_sp _ _, ?regs, ?setsI, ?flags, rfl, rfl,
    rfl, ?mem, rfl, rfl⟩
  case regs => exact (framed_regsDiffer (s.consumeTick.accepted id)).2
  case setsI => exact getFlag_putFlag_same _ _ _
  case flags => exact ccrKeeps_putFlag s.ccr .i true
  case mem => exact (framed_bytesDiffer (s.consumeTick.accepted id)).2

/-! ### RTE from an interrupt (R271, R314, R316) -/

/-- RTE in the state an interrupt entry left pops the frame: CCR, PC, and SP as it was. -/
theorem rte_of_entered {s : State} {src : IrqSource} (heven : s.pc.getLsbD 0 = false) (hpc : WordWritable s (s.sp - 2#16))
    (hccr : WordWritable s (s.sp - 4#16)) :
    ∃ u, exec .rte (s.entered src) = .next u ∧ u.pc = s.pc ∧ u.regs = s.regs ∧ u.ccr = s.ccr := by
  have hsp := entered_sp s src
  have hsp2 : s.sp - 4#16 + 2#16 = s.sp - 2#16 := by bv_omega
  have hsp4 : s.sp - 4#16 + 4#16 = s.sp := BitVec.sub_add_cancel _ _
  have hccrByte : (s.entered src).mem8 (evenAddr (s.sp - 4#16)) = s.ccr :=
    (mem8_putWord_even _ _ _).trans (hiByte_joinBytes _ _)
  have hnext := execRte_next_iff (s := s.entered src).mpr ⟨by rw [hsp]; exact hccr.readable, by
    rw [hsp, hsp2]; exact hpc.readable, rfl⟩
  rw [hsp, hsp2, hsp4, hccrByte, entered_pcWord] at hnext
  exact ⟨_, hnext, evenAddr_of_even heven, regs_setSp_of_regs_setSp rfl, rfl⟩

/-- Settles O48: the step's end is the state after interrupt entry, and RTE pops its frame. -/
theorem interruptThenReturn : Obligations.InterruptThenReturn := by
  intro s t id src hres heven hopen hchosen hstep
  rw [step_of_isChosen hres hopen hchosen, finish_next_iff] at hstep
  obtain ⟨hpc, hccr, -, rfl⟩ := takeInterrupt_eq_entered_iff.mp hstep
  exact rte_of_entered (s := s.consumeTick.accepted id) heven hpc hccr

end Sys2Proof.Machine
end

section
/-! SUPPORT. The inhibit latch: set by the instructions that write the CCR as a whole, cleared by every other (spec/10_state.md R45),
and what it defers (spec/60_exceptions.md R311). -/

namespace Sys2Proof.Machine

/-! ### The latch after an instruction, shape by shape -/

theorem irqInhibit_of_next {u t : State} {latch : Bool} (h : (Host.Outcome.next u : StepOutcome) = .next t)
    (hu : u.irqInhibit = latch) : t.irqInhibit = latch := by
  cases h
  exact hu

theorem irqInhibit_of_decimalAdjust {s t : State} {rd : Reg8} {table : List AdjustRow} {carry : AdjustRow → Bool}
    {free : List Flag} (h : decimalAdjust s rd table carry free = .next t) : t.irqInhibit = false := by
  unfold decimalAdjust at h
  dsimp only at h
  split at h
  · exact irqInhibit_of_next h rfl
  · exact irqInhibit_of_next h rfl

theorem irqInhibit_of_divxu {s t : State} {rs : Reg8} {rd : Reg16} (h : execDivxu rs rd s = .next t) :
    t.irqInhibit = false := by
  unfold execDivxu at h
  dsimp only at h
  split at h
  · exact irqInhibit_of_next h rfl
  · split at h
    · exact irqInhibit_of_next h rfl
    · exact irqInhibit_of_next h rfl

theorem irqInhibit_of_branchOn {s t : State} {k : Cond} {disp : Byte} (h : branchOn k disp s = .next t) :
    t.irqInhibit = false := by
  unfold branchOn at h
  split at h
  · exact irqInhibit_of_next h rfl
  · exact irqInhibit_of_next h rfl

theorem irqInhibit_of_loadByte {s t : State} {ea len : Addr} {rd : Reg8} (h : loadByte s ea rd len = .next t) :
    t.irqInhibit = false := by
  obtain ⟨-, rfl⟩ := loadByte_next_iff.mp h
  rfl

theorem irqInhibit_of_loadWord {s t : State} {ea len : Addr} {rd : Reg16} (h : loadWord s ea rd len = .next t) :
    t.irqInhibit = false := by
  obtain ⟨-, rfl⟩ := loadWord_next_iff.mp h
  rfl

theorem irqInhibit_of_moveByteTo {s t : State} {ea len : Addr} {v : Byte} (h : moveByteTo s ea v len = .next t) :
    t.irqInhibit = false := by
  obtain ⟨-, -, rfl⟩ := moveByteTo_next_iff.mp h
  rfl

theorem irqInhibit_of_moveWordTo {s t : State} {ea len : Addr} {v : Word} (h : moveWordTo s ea v len = .next t) :
    t.irqInhibit = false := by
  obtain ⟨-, rfl⟩ := moveWordTo_next_iff.mp h
  rfl

theorem irqInhibit_of_movBPostInc {s t : State} {rs : Reg16} {rd : Reg8} (h : execMovBPostInc rs rd s = .next t) :
    t.irqInhibit = false := by
  obtain ⟨-, rfl⟩ := execMovBPostInc_next_iff.mp h
  rfl

theorem irqInhibit_of_popInto {s t : State} {rs rd : Reg16} (h : popInto s rs rd = .next t) : t.irqInhibit = false := by
  obtain ⟨-, rfl⟩ := popInto_next_iff.mp h
  rfl

theorem irqInhibit_of_testMem {s t : State} {op : BitTest} {ea : Addr} {n : Imm3} (h : testMem s op ea n = .next t) :
    t.irqInhibit = false := by
  obtain ⟨-, rfl⟩ := testMem_next_iff.mp h
  rfl

theorem irqInhibit_of_modifyMem {s t : State} {ea : Addr} {f : Byte → Byte} (h : modifyMem s ea f = .next t) :
    t.irqInhibit = false := by
  obtain ⟨-, -, rfl⟩ := modifyMem_next_iff.mp h
  rfl

theorem irqInhibit_of_eepmov {s t : State} (h : execEepmov s = .next t) : t.irqInhibit = false := by
  obtain ⟨_, -, h⟩ := res_bind_ok_iff.mp (finish_next_iff.mp h)
  obtain ⟨_, -, h⟩ := res_bind_ok_iff.mp h
  obtain ⟨_, -, h⟩ := res_bind_ok_iff.mp h
  cases h
  rfl

theorem irqInhibit_of_callTo {s t : State} {target len : Addr} (h : callTo s target len = .next t) :
    t.irqInhibit = false := by
  obtain ⟨-, rfl⟩ := callTo_next_iff.mp h
  rfl

theorem irqInhibit_of_jmpMem {s t : State} {abs : Byte} (h : execJmpMem abs s = .next t) : t.irqInhibit = false := by
  obtain ⟨-, rfl⟩ := execJmpMem_next_iff.mp h
  rfl

theorem irqInhibit_of_rts {s t : State} (h : execRts s = .next t) : t.irqInhibit = false := by
  obtain ⟨-, rfl⟩ := execRts_next_iff.mp h
  rfl

theorem irqInhibit_of_rte {s t : State} (h : execRte s = .next t) : t.irqInhibit = false := by
  obtain ⟨-, -, rfl⟩ := execRte_next_iff.mp h
  rfl

/-! ### All instructions -/

theorem exec_irqInhibit {i : Instr} {s t : State} (h : exec i s = .next t) : t.irqInhibit = defersInterrupts i := by
  cases i
  case ldcReg | orc | xorc | andc | ldcImm => exact irqInhibit_of_next h rfl
  case nop | sleep | stc | addBReg | addW | inc | adds1 | adds2 | movBReg | movWReg | addxReg | shll | shal | shlr | shar
      | rotxl | rotl | rotxr | rotr | orReg | xorReg | andReg | notReg | neg | subB | subW | dec | subs1 | subs2 | cmpBReg
      | cmpW | subxReg | mulxu | jmpInd | jmpAbs | bsetRegReg | bnotRegReg | bclrRegReg | btstRegReg | bstImmReg
      | bistImmReg | bsetImmReg | bnotImmReg | bclrImmReg | btstImmReg | borImmReg | biorImmReg | bxorImmReg | bixorImmReg
      | bandImmReg | biandImmReg | bldImmReg | bildImmReg | movWImm | addBImm | addxImm | cmpBImm | subxImm | orImm | xorImm
      | andImm | movBImm =>
    exact irqInhibit_of_next h rfl
  case daa | das => exact irqInhibit_of_decimalAdjust h
  case divxu => exact irqInhibit_of_divxu h
  case bra => exact irqInhibit_of_branchOn (k := .always) h
  case brn disp => exact irqInhibit_of_branchOn (k := .never) (disp := disp) h
  case bhi | bls | bcc | bcs | bne | beq | bvc | bvs | bpl | bmi | bge | blt | bgt | ble => exact irqInhibit_of_branchOn h
  case movBLoadAbs8 | movBLoadInd | movBLoadAbs16 | movBLoadDisp => exact irqInhibit_of_loadByte h
  case movWLoadInd | movWLoadAbs16 | movWLoadDisp => exact irqInhibit_of_loadWord h
  case movBStoreAbs8 | movBStoreInd | movBStoreAbs16 | movBStoreDisp | movBPreDec => exact irqInhibit_of_moveByteTo h
  case movWStoreInd | movWStoreAbs16 | movWStoreDisp | movWPreDec | push => exact irqInhibit_of_moveWordTo h
  case movBPostInc => exact irqInhibit_of_movBPostInc h
  case movWPostInc | pop => exact irqInhibit_of_popInto h
  case eepmov => exact irqInhibit_of_eepmov h
  case btstImmInd | btstImmAbs | borImmInd | borImmAbs | biorImmInd | biorImmAbs | bxorImmInd | bxorImmAbs | bixorImmInd
      | bixorImmAbs | bandImmInd | bandImmAbs | biandImmInd | biandImmAbs | bldImmInd | bldImmAbs | bildImmInd | bildImmAbs
      | btstRegInd | btstRegAbs =>
    exact irqInhibit_of_testMem h
  case bstImmInd | bstImmAbs | bistImmInd | bistImmAbs | bsetImmInd | bsetImmAbs | bnotImmInd | bnotImmAbs | bclrImmInd
      | bclrImmAbs | bsetRegInd | bsetRegAbs | bnotRegInd | bnotRegAbs | bclrRegInd | bclrRegAbs =>
    exact irqInhibit_of_modifyMem h
  case bsr | jsrInd | jsrAbs => exact irqInhibit_of_callTo h
  case jsrMem => exact irqInhibit_of_callTo (execJsrMem_next_iff.mp h).2
  case jmpMem => exact irqInhibit_of_jmpMem h
  case rts => exact irqInhibit_of_rts h
  case rte => exact irqInhibit_of_rte h

/-- Settles O49: every ending but that of `writeCcr` clears the latch; while it is set, the step executes whatever is pending. -/
theorem interruptDeferral : Obligations.InterruptDeferral := by
  refine ⟨fun i s t => exec_irqInhibit, fun s i rest hlatch hres hprog hd hm => ?_⟩
  have hexec : Executes s := ⟨hres, hprog, .inl hlatch⟩
  have hlength : i.length.toNat ≤ 4 := by
    rcases encode_length_one_or_two i with e | e <;> simp [Instr.length, e]
  exact (stepRunsDecodedInstruction s i rest hexec hd fun k hk => hm k (hk.trans_le hlength)).1

end Sys2Proof.Machine
end

section
/-! SUPPORT. Reset: RES low at a boundary or in the middle of what a step has begun, and the sequence once it is high again
(spec/60_exceptions.md R302 to R306, spec/46_block_transfer.md R285). -/

namespace Sys2Proof.Machine

/-! ### RES low at a boundary (R303) -/

theorem step_of_low {s : State} (h : s.tick.res = .low) : step s = .next s.consumeTick.enterReset := by
  simp only [step, phase, h]

/-! ### RES low in the middle (R303, R304) -/

theorem step_of_lowAfter {s : State} {k : Nat} (h : s.tick.res = .lowAfter k) :
    step s = finish (s.consumeTick.cutShort s.tick.pending k) := by
  simp only [step, phase_of_lowAfter h]

theorem abandoned_flag_i (s : State) : s.abandoned.flag .i = true := getFlag_putFlag_same _ _ _

/-- Whatever was cut short, no access changes the chip or the coming ticks. -/
theorem cutShort_ok {s t : State} {pending : List Nat} {k : Nat} (h : s.cutShort pending k = .ok t) :
    t.cpuState = .reset ∧ t.flag .i = true ∧ t.chip = s.chip ∧ t.env.ticks = s.env.ticks := by
  obtain ⟨s1, plan, s2, hbegun, hrun, rfl⟩ := cutShort_ok_iff.mp h
  obtain ⟨-, -, -, -, -, hchip, -, hticks⟩ := plan.run_keeps k s1 s2 hrun
  have hbegins : s1.chip = s.chip ∧ s1.env.ticks = s.env.ticks := by
    rcases begun_ok hbegun with rfl | ⟨id, rfl⟩
    · exact ⟨rfl, rfl⟩
    · exact ⟨rfl, rfl⟩
  exact ⟨rfl, abandoned_flag_i s2, hchip.trans hbegins.1, hticks.trans hbegins.2⟩

/-- The accesses of an instruction depend on registers, flags and the PC, not on the script. -/
theorem dataAccesses_consumeTick (i : Instr) (s : State) : dataAccesses i s.consumeTick = dataAccesses i s := rfl

theorem begun_of_abandonsAfter {s : State} {i : Instr} {k : Nat} (h : AbandonsAfter s i k) :
    s.consumeTick.begun s.tick.pending = .ok (s.consumeTick, dataAccesses i s) := by
  obtain ⟨-, hprog, hirq, ⟨rest, hd⟩, hm⟩ := h
  have hfetch : s.consumeTick.fetch = .ok i := fetch_of_decode_of_length (s := s.consumeTick) hd hm
  have hinstr : s.consumeTick.instructionBegun = .ok (s.consumeTick, dataAccesses i s) := by
    rw [State.instructionBegun, hfetch, res_ok_bind, dataAccesses_consumeTick]
  rw [State.begun, State.consumeTick_cpuState, hprog]
  rcases hirq with hinhibit | hnone
  · simp [hinhibit, hinstr]
  · have hchoose : s.consumeTick.choose s.tick.pending = none := choose_none_iff.mpr hnone
    simp [hchoose, hinstr]

/-- An instruction abandoned after `k` accesses leaves what these leave. -/
theorem step_of_abandonsAfter {s u : State} {i : Instr} {k : Nat} (h : AbandonsAfter s i k)
    (hrun : (dataAccesses i s).run k s.consumeTick = .ok u) : step s = .next u.abandoned := by
  rw [step_of_lowAfter h.1, cutShort_ok_iff.mpr ⟨_, _, u, begun_of_abandonsAfter h, hrun, rfl⟩, finish_ok]

/-! ### EEPMOV abandoned (spec/46_block_transfer.md R285) -/

/-- Cut after `j` bytes, or between the read and the write of byte `j`, a transfer has come as far as one of `j` bytes. -/
theorem run_accessTransfer_cut {npc : Addr} {r : Nat} (hr : r < 2) (j : Nat) : ∀ {n : Nat} {s : State} {src dst : Addr}, j ≤ n →
    (j < n → IsMemory s (src + BitVec.ofNat 16 j)) →
    (accessTransfer npc n src dst).run (2 * j + r) s = (accessTransfer npc j src dst).run (2 * j) s := by
  induction j with
  | zero =>
    intro n s src dst _ hsrc
    obtain _ | n := n
    · rfl
    · obtain rfl | rfl : r = 0 ∨ r = 1 := by omega
      · rfl
      · have hread : IsMemory s src := by simpa using hsrc (Nat.zero_lt_succ n)
        simp only [accessTransfer, BusPlan.run, readByte_memory hread, res_ok_bind]
  | succ j ih =>
    intro n s src dst hjn hsrc
    obtain ⟨n, rfl⟩ : ∃ m, n = m + 1 := ⟨n - 1, by omega⟩
    rw [show 2 * (j + 1) + r = 2 * j + r + 2 by omega, show 2 * (j + 1) = 2 * j + 2 by omega]
    simp only [accessTransfer, BusPlan.run]
    cases hread : s.readByte src with
    | error e => rfl
    | ok p =>
      obtain ⟨b, s1⟩ := p
      simp only [res_ok_bind]
      cases hstore : s1.storeByte npc dst b with
      | error e => rfl
      | ok s2 =>
        refine ih (Nat.le_of_succ_le_succ hjn) fun hlt => ?_
        obtain ⟨-, -, rfl⟩ := readByte_ok_iff.mp hread
        obtain ⟨-, -, rfl⟩ := storeByte_ok_iff.mp hstore
        rw [IsMemory, afterWrite_kindAt, afterRead_kindAt, ← add_ofNat_succ]
        exact hsrc (Nat.succ_lt_succ hlt)

/-- The first accesses of EEPMOV within on-chip memory: the preliminary reads and `j` bytes. -/
theorem run_eepmov_cut {s : State} {j k : Nat} (hk : k / 2 = j + 1) (hj : j ≤ (s.r8 12#4).toNat) (hsource : IsMemory s (s.r16 5#3))
    (hdest : IsMemory s (s.r16 6#3))
    (hread : ∀ m : Nat, m ≤ j → m < (s.r8 12#4).toNat → IsMemory s (s.r16 5#3 + BitVec.ofNat 16 m))
    (hstore : ∀ m : Nat, m < j → ByteStorable s (s.pc + 4#16) (s.r16 6#3 + BitVec.ofNat 16 m)) :
    ∃ u, (dataAccesses .eepmov s).run k s.consumeTick = .ok u ∧
      BytesDiffer s u (along Prod.mk (s.r16 6#3) j (copiedByte s (s.r16 5#3) (s.r16 6#3))) := by
  have hcount : (s.r8 12#4).toNat < 256 := (s.r8 12#4).isLt
  have hreadSource : s.consumeTick.readByte (s.r16 5#3) = .ok (s.mem8 (s.r16 5#3), s.consumeTick) := readByte_memory hsource
  have hreadDest : s.consumeTick.readByte (s.r16 6#3) = .ok (s.mem8 (s.r16 6#3), s.consumeTick) := readByte_memory hdest
  obtain ⟨r, hr, rfl⟩ : ∃ r, r < 2 ∧ k = 2 * j + r + 2 := ⟨k % 2, Nat.mod_lt _ (by decide), by omega⟩
  obtain ⟨u, hrun, -, hbytes⟩ := run_accessTransfer_memory (s := s.consumeTick) (npc := s.npc 4#16) (src := s.r16 5#3)
    (dst := s.r16 6#3) (k := 2 * j) j (by omega) le_rfl fun m hm => ⟨hread m hm.le (hm.trans_le hj), hstore m hm⟩
  refine ⟨u, ?_, hbytes⟩
  simp only [dataAccesses, BusPlan.run, hreadSource, hreadDest, res_ok_bind]
  rw [run_accessTransfer_cut (s := s.consumeTick) hr j hj (hread j le_rfl), hrun]

/-- Settles O50: RES low leaves `enterReset` at a boundary, and `abandoned` after the accesses made. -/
theorem resetLine : Obligations.ResetLine := by
  refine ⟨fun s hlow => ?boundary, fun s t k hlow hstep => ?middle, fun s u i k h hrun => ?instruction,
    fun s j k h hk hj hsource hdest hread hstore => ?eepmov⟩
  case boundary =>
    have hflag : s.consumeTick.enterReset.flag .i = true := getFlag_putFlag_same _ _ _
    exact ⟨_, step_of_low hlow, rfl, hflag, ccrKeeps_putFlag s.ccr .i true, rfl, rfl, rfl, rfl, rfl⟩
  case middle => exact cutShort_ok (finish_next_iff.mp ((step_of_lowAfter hlow).symm.trans hstep))
  case instruction => exact ⟨_, step_of_abandonsAfter h hrun, rfl, rfl, rfl⟩
  case eepmov =>
    obtain ⟨u, hrun, hbytes⟩ := run_eepmov_cut hk hj hsource hdest hread hstore
    obtain ⟨hcopied, hkept⟩ := hbytes.of_mem_eq (t := u.abandoned) rfl
    refine ⟨_, step_of_abandonsAfter h hrun, rfl, fun m hm => ?_, ?_⟩
    · exact hcopied _ (List.mem_map_of_mem (List.mem_range.mpr hm))
    · rw [along, List.map_map] at hkept
      exact hkept

/-! ### The reset sequence (R305, R306) -/

/-- Writing free values at those of `places` that are RAM leaves every byte that is not RAM alone. -/
theorem Memory.read_freeRam_of_not_ram {isRam : Nat → Bool} {d b : Nat} (h : isRam b = false) (places : List Nat) (m : Memory) :
    Memory.read (places.foldl (fun m a => if isRam a then Memory.write m a (Config.freeRam d a) else m) m) b =
      Memory.read m b := by
  induction places generalizing m with
  | nil => rfl
  | cons a places ih =>
    rw [List.foldl_cons, ih]
    split
    case isTrue ha =>
      have hne : a ≠ b := fun e => Bool.false_ne_true (h.symm.trans (e ▸ ha))
      exact Memory.read_write_other m _ hne
    case isFalse => rfl

theorem Memory.read_scrambled_of_not_ram {m : Memory} {isRam : Nat → Bool} {d b : Nat} (h : isRam b = false) :
    Memory.read (Memory.scrambled m isRam d) b = Memory.read m b :=
  Memory.read_freeRam_of_not_ram h _ m

theorem uninitialised_mem8 {s : State} {a : Addr} (h : s.chip.ramKept = true ∨ ¬ IsRam s a) :
    s.uninitialised.mem8 a = s.mem8 a := by
  unfold State.mem8 State.uninitialised
  dsimp only
  split
  case isTrue => rfl
  case isFalse hlost =>
    have hnot : ¬ IsRam s a := h.resolve_left hlost
    apply Memory.read_scrambled_of_not_ram
    rw [BitVec.ofNat_toNat, BitVec.setWidth_eq]
    exact Bool.eq_false_iff.mpr (mt (isRam_iff s a).mp hnot)

/-- Settles O51: the vector word is read before anything is made free. -/
theorem resetSequence : Obligations.ResetSequence := by
  intro s hres hreset hvector
  have hphase : phase s = .done (finish s.consumeTick.resetSequence) := by rw [phase_of_high hres, hreset]
  have hstep : step s = finish s.consumeTick.resetSequence := by rw [step, hphase]
  rw [resetSequence_ok_iff (s := s.consumeTick).mpr ⟨hvector, rfl⟩, finish_ok] at hstep
  refine ⟨_, hstep, rfl, ?_, rfl, rfl, rfl, rfl, fun a ha => ?_⟩
  · exact getFlag_putFlag_same _ _ _
  · exact uninitialised_mem8 (s := s.consumeTick) ha

end Sys2Proof.Machine
end

section
/-! SUPPORT. The manual's worked state counts (spec/70_reset_and_hazards.md R356 to R358). -/

namespace Sys2Proof.Laws

/-- Settles O59: Table 2-4's cycles times Table 2-3's states, each count evaluated. -/
theorem executionStates : Obligations.ExecutionStates := ⟨rfl, rfl, rfl, rfl, rfl, rfl, rfl⟩

end Sys2Proof.Laws
end
